-- ==== Sys2Proof/Word.lean ====
section
/-! DEFINITION. The word types of the T640: a byte of a frame or of a store slot, and the tag a requester chooses (spec/11_frame_and_record_layouts.md). -/

namespace Sys2Proof

/-- One byte of a CAN frame or of a store slot. -/
abbrev Byte := BitVec 8

/-- The tag 0 to 255 chosen by the requester and echoed in every answer (spec/00_scope.md, 4). -/
abbrev Tag := BitVec 8

/-- The 16 bytes of one slot of the record store (spec/10_the_record_store.md, 10.1). -/
abbrev SlotBytes := Vector Byte 16

end Sys2Proof
end

