-- ==== Sys2Proof/Config.lean ====
section
/-! DEFINITION. What one part fixes and the spec does not state, and the free values: constants without a body, so that no proof can see what they are (notes/assumptions/2.md, 3.md and 4.md). -/

namespace Sys2Proof

/-- R187: the design revision number that IDENTIFY carries; the spec gives the family and part codes and not this number
(notes/assumptions/2.md). -/
opaque Config.designRevision : Byte

/-- FREE VALUE: the byte that an answer carries in a place to which the spec gives no value, by place and by the answer's other bytes
(notes/assumptions/3.md): the tag byte of an empty held-request slot in IDENTIFY, the fault code of an absent last reply and the
table fields of a channel that is not present in READ_CHANNEL. A second read of the same state gives the same byte (R168). -/
opaque Config.freeByte : Nat → List Byte → Byte

/-- FREE VALUE: the raw load of an axle whose LOAD table counts no breakpoint, by axle and bag pressure; R26 gives none for a
breakpoint count of 0 (notes/assumptions/4.md). -/
opaque Config.freeRawLoad : Nat → Nat → Nat

/-- FREE VALUE: the rollover threshold of a ROLL table that counts no breakpoint, by total load; R80 gives none for a count of
0 (notes/assumptions/4.md). -/
opaque Config.freeThreshold : Nat → Nat

/-- FREE VALUE: the load ratio of an axle whose rated load is 0, by filtered load; R36 divides by the rated load
(notes/assumptions/4.md). -/
opaque Config.freeRatio : Nat → Nat

/-- FREE VALUE: what field number `i` of table entry `e` of table `t` takes when a stored TABLE record recognised by restore is
too short to hold it (notes/assumptions/4.md). -/
opaque Config.freeField : Nat → Nat → Nat → Nat

/-- FREE VALUE: the pressure that the command of a present channel without wheel ends carries, by channel, where R67 does not make it 0; R54
gives none for an empty axle set (notes/assumptions/4.md). -/
opaque Config.freeCommand : Nat → Nat

end Sys2Proof
end

