-- ==== Sys2Proof/Syntax.lean ====
section
/-! DEFINITION. The commands of the T640: one constructor per row of spec/opcode_table.json. A command is what happens at the
part's links and pins (a frame that arrives, a frame that has been transmitted, tow power, a reset) or the expiry of one of its
timers. Operands are the bits of the frame as they arrive (spec/11_frame_and_record_layouts.md); decoding them is the meaning's. -/

namespace Sys2Proof

/-- A CAN frame as the part sends it or queues it: 11-bit identifier and 8 data bytes, byte 0 in the highest bits
(chapter 11). -/
structure CanFrame where
  id : BitVec 11
  data : BitVec 64
  deriving DecidableEq, Repr

/-- A CAN frame as it arrives: its data length may differ from 8, which makes it malformed (R160). -/
structure RxFrame where
  id : BitVec 11
  len : BitVec 4
  data : BitVec 64
  deriving DecidableEq, Repr

/-- A REQUEST frame without its request code (11.2): target position, tag, byte 2 (the hold flag is its bit 0), bytes 3 to 7. -/
structure Request where
  target : BitVec 4
  tag : Tag
  flags : Byte
  args : BitVec 40
  deriving DecidableEq, Repr

/-- A TABLE_WRITE frame (11.2): target position, tag, table, entry and the 48-bit field area. -/
structure TableWriteFrame where
  target : BitVec 4
  tag : Tag
  table : BitVec 3
  entry : BitVec 5
  area : BitVec 48
  deriving DecidableEq, Repr

/-- A frame of the two kinds that are addressed by position (R164). -/
inductive RearwardFrame where
  | request (code : Byte) (r : Request)
  | tableWrite (w : TableWriteFrame)
  deriving DecidableEq, Repr

/-- The two pulse trains of the wheel-end channel unit (3.7). -/
inductive Train where
  | a
  | b
  deriving DecidableEq, Repr

/-- The commands, in the order of spec/opcode_table.json. -/
inductive Instr where
  /-- POWER_ON_RESET (R184); `towPower`: whether tow power is present at the reset (R183). -/
  | powerOnReset (towPower : Bool)
  /-- BROWN_OUT_RESET (R184); `towPower`: whether tow power is present at the reset (R183). -/
  | brownOutReset (towPower : Bool)
  | restoreSlotRead
  | restoreEnd
  | towPowerLoss
  | standbyTimerExpiry
  | towPowerReturn
  | secondsTick
  | statusTimerExpiry
  | airSample (supply reservoir control : BitVec 16) (status : Byte)
  | airSampleTimerExpiry
  | demand (pressure : BitVec 16) (hop seq : BitVec 4) (speed : BitVec 16)
  | linkTimerExpiry
  | valveReply (node : BitVec 5) (position : Byte)
  | valvePollDue
  | valveTimerExpiry
  | autoParkTimerExpiry
  | releaseHoldTimerExpiry
  | parkApply (r : Request)
  | parkRelease (r : Request)
  | loadSample (axle : Byte) (bag : BitVec 16) (status : Byte)
  | staleTimerExpiry (axle : Fin 4)
  | fallbackTimerExpiry (axle : Fin 4)
  | chassisTxDone
  | chassisTxAbandon
  | refreshTimerExpiry (channel : Fin 6)
  | modReply (node : BitVec 5) (pressure speed : BitVec 16) (fault : Byte)
  | unmaskChannel (r : Request)
  | readChannel (r : Request)
  | phaseTimerExpiry (train : Train)
  | serviceActuate (r : Request)
  | serviceHoldTimerExpiry
  | lateralSample (value : BitVec 16) (status : Byte)
  | lateralTimerExpiry
  | holdTimerExpiry
  | rampTimerExpiry
  | lockoutTimerExpiry
  | tyreTelegram (ident : BitVec 32) (pressure : BitVec 16) (temperature flags : Byte)
  | repeatWindowEnd (entry : Fin 20)
  | missingTimerExpiry (entry : Fin 20)
  | learn (r : Request)
  | learnTimerExpiry
  | assign (r : Request)
  | remove (r : Request)
  | exchange (r : Request)
  | exchangeTimerExpiry
  | readRegistry (r : Request)
  | readTyre (r : Request)
  | tableWrite (w : TableWriteFrame)
  | readTable (r : Request)
  | discard (r : Request)
  | insert (r : Request)
  | requestUnknown (code : Byte) (r : Request)
  | requestNotReady (f : RearwardFrame)
  | requestNotAddressed (f : RearwardFrame)
  | towFrameDiscarded (f : RxFrame)
  | rearFrame (f : RxFrame)
  | towTxDone
  | towTxAbandon
  | rearTxDone
  | rearTxAbandon
  | cancel (r : Request)
  | identify (r : Request)
  | nextAlert (r : Request)
  | ackAlert (r : Request)
  | reset (r : Request)
  | clearCause (r : Request)
  | readRecordFirst (r : Request)
  | readRecordNext (r : Request)
  | eraseStore (r : Request)
  | eraseEnd
  /-- RECORD_SLOT_WRITTEN (R190, R191); `readBack`: `none` when the slot reads back as written, `some` what it reads back as. -/
  | recordSlotWritten (readBack : Option SlotBytes)
  deriving DecidableEq, Repr

end Sys2Proof
end

