-- ==== Sys2Proof/Machine/State.lean ====
section
/-! DEFINITION. The state of the T640: one structure per block of spec/00_scope.md section 3, the factory tables of chapter 7, and
the state after a power-on reset of a part with a blank store. Every field is plain data. -/

namespace Sys2Proof.Machine

/-! ## Names shared by the blocks -/

/-- The two sides (5.2). -/
inductive Side where
  | left
  | right
  deriving DecidableEq, Repr

/-- The place of a tyre on its wheel end (5.2). -/
inductive Place where
  | outer
  | inner
  deriving DecidableEq, Repr

/-- A running timer: its length in ms and the clock when it was started (5.6). -/
structure Run where
  length : Nat
  since : Nat
  deriving DecidableEq, Repr

/-- A timer: `none` is stopped. -/
abbrev Timer := Option Run

/-! ## Calibration tables (chapter 7) -/

/-- AXLE entry of one axle (7.2.1). -/
structure AxleEntry where
  present : Bool := false
  twin : Bool := false
  p0 : Nat := 30
  lRated : Nat := 1000
  rMin : Nat := 300
  fallback : Nat := 1000
  deriving DecidableEq, Repr

/-- A LOAD breakpoint (7.2.2). -/
structure LoadPoint where
  bag : Nat := 0
  load : Nat := 0
  deriving DecidableEq, Repr

/-- The LOAD table: breakpoint j + 1 of axle a is `points[8 (a - 1) + j]`, and each axle has a count (7.2.2). -/
structure LoadTable where
  points : Vector LoadPoint 32 := Vector.replicate 32 {}
  counts : Vector Nat 4 := Vector.replicate 4 0
  deriving DecidableEq, Repr

/-- CHANNEL entry of one channel (7.2.3); `axles[a]` says whether axle a + 1 is in the axle set. -/
structure ChannelEntry where
  present : Bool := false
  side : Side := .left
  axles : Vector Bool 4 := Vector.replicate 4 false
  node : Nat := 1
  deriving DecidableEq, Repr

/-- The priority modes (7.2.3). -/
inductive PriorityMode where
  | fixed
  | rotating
  deriving DecidableEq, Repr

/-- The CHANNEL table (7.2.3) with its factory values. -/
structure ChannelTable where
  mode : PriorityMode := .fixed
  deadband : Nat := 10
  refresh : Nat := 100
  entries : Vector ChannelEntry 6 :=
    Vector.ofFn fun c => { node := c.val + 1, side := if c.val % 2 = 0 then .left else .right }
  deriving DecidableEq, Repr

/-- A ROLL breakpoint: total load and threshold (7.2.4). -/
structure RollPoint where
  load : Nat := 0
  threshold : Nat := 0
  deriving DecidableEq, Repr

/-- The ROLL table (7.2.4) with its factory values. -/
structure RollTable where
  points : Vector RollPoint 6 := ((Vector.replicate 6 {}).set 0 ⟨0, 400⟩).set 1 ⟨12000, 400⟩
  enabled : Bool := false
  shadow : Bool := false
  count : Nat := 2
  aFloor : Nat := 250
  vMin : Nat := 300
  watch : Nat := 700
  probe : Nat := 850
  exit : Nat := 600
  lift : Nat := 200
  step : Nat := 50
  probePressure : Nat := 150
  probeCount : Nat := 3
  pulseLength : Nat := 200
  rep : Bool := false
  outer : Nat := 500
  inner : Nat := 100
  hold : Nat := 1000
  rampStep : Nat := 50
  rampInterval : Nat := 100
  lockout : Nat := 2000
  deriving DecidableEq, Repr

/-- TYRE entry of one axle (7.2.5). -/
structure TyreEntry where
  pRef : Nat := 800
  derate : Nat := 500
  deriving DecidableEq, Repr

/-- The TYRE table (7.2.5) with its factory values. -/
structure TyreTable where
  axles : Vector TyreEntry 4 := Vector.replicate 4 {}
  warn : Nat := 850
  alarm : Nat := 750
  deflate : Nat := 500
  high : Nat := 1250
  hysteresis : Nat := 20
  hotLimit : Nat := 95
  standbyLimit : Nat := 72
  deriving DecidableEq, Repr

/-- The SUPPLY table (7.2.6) with its factory values. -/
structure SupplyTable where
  emergency : Nat := 250
  recovery : Nat := 450
  ready : Nat := 550
  release : Nat := 600
  emergencyDemand : Nat := 800
  linkTimeout : Nat := 150
  autoParkDelay : Nat := 30
  releaseHold : Nat := 60
  deriving DecidableEq, Repr

/-- ALERT entry of one kind (7.2.7); `urgent` is the level URGENT. -/
structure AlertEntry where
  enable : Bool := true
  urgent : Bool := false
  deriving DecidableEq, Repr

/-- The seven calibration tables with their factory content (R157); `alert[n]` is the entry of rank n + 1. -/
structure Tables where
  axle : Vector AxleEntry 4 := Vector.replicate 4 {}
  load : LoadTable := {}
  channel : ChannelTable := {}
  roll : RollTable := {}
  tyre : TyreTable := {}
  supply : SupplyTable := {}
  alert : Vector AlertEntry 23 := Vector.ofFn fun k => { urgent := k.val < 9 || k.val = 11 }
  deriving DecidableEq, Repr

/-- R157: the factory default of every table. -/
def Tables.factory : Tables := {}

/-- The seven tables, in the order of their codes (11.2). -/
inductive TableId where
  | axle
  | load
  | channel
  | roll
  | tyre
  | supply
  | alert
  deriving DecidableEq, Repr

/-! ## Air supply supervisor (1.1) -/

/-- The supply states (1.4). -/
inductive SupplyState where
  | undetermined
  | parked
  | charging
  | ready
  | emergency
  deriving DecidableEq, Repr

/-- The three pressures of an AIR_SAMPLE, in kPa. -/
structure AirSample where
  supply : Nat
  reservoir : Nat
  control : Nat
  deriving DecidableEq, Repr

inductive LinkState where
  | linked
  | unlinked
  deriving DecidableEq, Repr

/-- The kinds of a valve operation and of a valve command (1.6). -/
inductive ValveKind where
  | query
  | apply
  | release
  deriving DecidableEq, Repr

inductive ValvePhase where
  | pending
  | sent
  | polling
  deriving DecidableEq, Repr

/-- The park valve operation in progress (1.6). `auto` marks an APPLY that the auto-park timer started
(notes/assumptions/15.md). `polls` are the QUERY commands still to be raised, one for each MOVING reply, the earliest first (R15). -/
structure ValveOp where
  kind : ValveKind
  requester : Option Tag
  phase : ValvePhase
  auto : Bool
  valveTimer : Timer
  polls : List Run
  deriving DecidableEq, Repr

/-- R20: a held PARK_RELEASE. -/
structure HeldRelease where
  tag : Tag
  timer : Timer
  deriving DecidableEq, Repr

/-- The air supply supervisor with its reset values (R24). -/
structure Asv where
  supply : SupplyState := .undetermined
  breakaway : Bool := false
  fallen : Bool := false
  lastAir : Option AirSample := none
  airTimer : Timer := none
  airLost : Bool := false
  link : LinkState := .unlinked
  lastSeq : Option (BitVec 4) := none
  goodRun : Nat := 0
  lastDemand : Option Nat := none
  towSpeed : Option Nat := none
  linkTimer : Timer := none
  linkLost : Bool := false
  staleCount : Nat := 0
  lostCount : Nat := 0
  valveOp : Option ValveOp := none
  heldRelease : Option HeldRelease := none
  autoParkTimer : Timer := none
  dEff : Option Nat := none
  deriving DecidableEq, Repr

/-! ## Load apportioner (2.1) -/

inductive LoadStatus where
  | unknown
  | live
  | stale
  | fallback
  deriving DecidableEq, Repr

/-- The load record of one axle with its reset values (R51). R51 gives the ratio for the present axles of the restored table alone: of
every axle before restore ends it is 1,000, the model's choice (notes/assumptions/37.md). -/
structure LoadRecord where
  bag : Option Nat := none
  lRaw : Option Nat := none
  lF : Option Nat := none
  status : LoadStatus := .unknown
  takeWhole : Bool := true
  silent : Bool := false
  staleTimer : Timer := none
  fallbackTimer : Timer := none
  ratio : Nat := 1000
  target : Option Nat := none
  deriving DecidableEq, Repr

/-- The load apportioner with its reset values (R51). -/
structure Lap where
  axles : Vector LoadRecord 4 := Vector.replicate 4 {}
  held : Bool := true
  totalLoad : Nat := 0
  brakeActive : Bool := true
  deriving DecidableEq, Repr

/-! ## Wheel-end channel unit (3.1, 3.2, 3.7, 3.8) -/

/-- The record of one wheel end with its reset values (R77). -/
structure WheelEnd where
  cap : Nat := 1000
  w : Option Nat := none
  i : Nat := 0
  s : Nat := 0
  f : Option Nat := none
  deriving DecidableEq, Repr

inductive MaskCause where
  | lost
  | fault
  deriving DecidableEq, Repr

/-- A modulator's most recent answer (R59). -/
structure LastReply where
  pressure : Nat
  speed : Nat
  fault : Byte
  deriving DecidableEq, Repr

/-- The record of one channel with its reset values (R77). -/
structure Channel where
  command : Option Nat := none
  lastSent : Nat := 0
  request : Bool := false
  mask : Option MaskCause := none
  awaiting : Bool := false
  missCount : Nat := 0
  lastReply : Option LastReply := none
  refreshTimer : Timer := none
  deriving DecidableEq, Repr

inductive TrainPhase where
  | off
  | pulse
  | gap
  deriving DecidableEq, Repr

/-- A pulse train (3.7) with its reset values (R71; the parameters' values: notes/assumptions/6.md). -/
structure PulseTrain where
  targets : Vector Bool 6 := Vector.replicate 6 false
  pressure : Nat := 0
  pulse : Nat := 0
  base : Nat := 0
  count : Nat := 0
  phase : TrainPhase := .off
  armed : Bool := false
  rep : Bool := false
  terminal : Bool := false
  timer : Timer := none
  deriving DecidableEq, Repr

/-- The arguments of SERVICE_ACTUATE (R72). -/
structure ServiceArgs where
  channel : Fin 6
  pressure : Nat
  count : Nat
  pulse : Nat
  deriving DecidableEq, Repr

/-- R72: the one service actuation. -/
inductive Service where
  | none
  | held (tag : Tag) (args : ServiceArgs) (timer : Timer)
  | running (tag : Tag) (channel : Fin 6)
  deriving DecidableEq, Repr

/-- The wheel-end channel unit with its reset values (R77). Wheel end `w` of `wheels` is axle `w / 2 + 1`, LEFT when `w` is even. -/
structure Wcu where
  wheels : Vector WheelEnd 8 := Vector.replicate 8 {}
  channels : Vector Channel 6 := Vector.replicate 6 {}
  trainA : PulseTrain := {}
  trainB : PulseTrain := {}
  service : Service := .none
  ranking : List (Fin 6) := [0, 1, 2, 3, 4, 5]
  pendingValve : Option ValveKind := .none
  /-- The chassis bus transmitter: `none` is free, `some f` is busy with frame f (R57). -/
  tx : Option CanFrame := .none
  refSpeed : Nat := 0
  suspended : Bool := true
  deriving DecidableEq, Repr

/-! ## Rollover unit (4.1) -/

inductive OffCause where
  | disabled
  | sensorLost
  deriving DecidableEq, Repr

/-- The stability states (4.4); the off cause is present in OFF only. -/
inductive Stability where
  | quiet
  | watch
  | probe
  | intervene
  | holdoff
  | off (cause : OffCause)
  deriving DecidableEq, Repr

inductive Sign where
  | positive
  | negative
  deriving DecidableEq, Repr

inductive EpisodeCause where
  | lateral
  | lift
  deriving DecidableEq, Repr

inductive EpisodeEnd where
  | ramped
  | sensorLost
  | standby
  deriving DecidableEq, Repr

/-- R102: the episode in progress; `start` is the clock at the entry, from which the duration is counted. -/
structure Episode where
  entryTime : Nat
  cause : EpisodeCause
  totalLoad : Nat
  aLim : Nat
  peak : Nat
  speed : Nat
  shadow : Bool
  start : Nat
  deriving DecidableEq, Repr

/-- The rollover unit with its reset values (R107; the thresholds before restore ends: notes/assumptions/6.md). -/
structure Rou where
  state : Stability := .quiet
  lastSample : Int := 0
  sign : Sign := .positive
  goodCount : Nat := 0
  sensorMark : Bool := false
  probeDone : Bool := false
  aTab : Nat := 400
  aLim : Nat := 400
  k : Nat := 0
  watchT : Nat := 280
  probeT : Nat := 340
  exitT : Nat := 240
  pressures : Vector Nat 8 := Vector.replicate 8 0
  lifted : Vector Bool 8 := Vector.replicate 8 false
  episode : Option Episode := none
  lateralTimer : Timer := none
  holdTimer : Timer := none
  rampTimer : Timer := none
  lockoutTimer : Timer := none
  sensorLost : Bool := false
  deriving DecidableEq, Repr

/-! ## Tyre watch and registry (5.1, 6.1) -/

/-- A tyre position or a spare slot (6.1); axle and slot count from 0. -/
inductive Binding where
  | tyre (axle : Fin 4) (side : Side) (place : Place)
  | spare (slot : Fin 4)
  deriving DecidableEq, Repr

/-- The tyre levels (5.4). -/
inductive Level where
  | unknown
  | normal
  | lowWarn
  | lowAlarm
  | deflated
  | high
  | missing
  deriving DecidableEq, Repr

/-- The reading record of an entry with its reset values (R129). -/
structure Reading where
  level : Level := .unknown
  pressure : Option Nat := none
  temperature : Option Int := none
  count : Option (BitVec 4) := none
  adj : Option Int := none
  hot : Bool := false
  battery : Bool := false
  stale : Bool := false
  deflMissing : Bool := false
  missingTimer : Timer := none
  repeatWindow : Timer := none
  deriving DecidableEq, Repr

/-- A bound registry entry (R130: it holds both an identifier and a binding). -/
structure Bound where
  ident : BitVec 32
  binding : Binding
  reading : Reading := {}
  deriving DecidableEq, Repr

/-- R132: the open learn window. -/
structure LearnWindow where
  binding : Binding
  tag : Tag
  timer : Timer
  answered : List (BitVec 32)
  deriving DecidableEq, Repr

/-- R138: the open exchange half. -/
structure ExchangeHalf where
  binding : Binding
  tag : Tag
  timer : Timer
  deriving DecidableEq, Repr

/-- The tyre watch with its reset values (R129, R143). An entry is `none` while it is empty (R130). -/
structure Twu where
  entries : Vector (Option Bound) 20 := Vector.replicate 20 none
  foreign : Nat := 0
  repeats : Nat := 0
  invalid : Nat := 0
  deflated : Nat := 0
  learn : Option LearnWindow := none
  half : Option ExchangeHalf := none
  deriving DecidableEq, Repr

/-! ## Table unit (7.1) -/

/-- The table unit with its reset values (R159). The factory tables stand in the active and the shadow copies until restore ends, the model's choice
(notes/assumptions/6.md). -/
structure Tbu where
  active : Tables := {}
  shadow : Tables := {}
  differs : Bool := false
  heldInsert : Option Tag := none
  deriving DecidableEq, Repr

/-! ## Link and relay unit (8.1) -/

/-- A frame of the forward queue; `resetDone` marks the DONE of an accepted RESET (R186, notes/assumptions/16.md). -/
structure ForwardFrame where
  frame : CanFrame
  resetDone : Bool := false
  deriving DecidableEq, Repr

/-- The link and relay unit with its reset values (R173). -/
structure Lru where
  position : Nat := 0
  demandSlot : Option CanFrame := none
  rearQueue : List CanFrame := []
  forwardQueue : List ForwardFrame := []
  /-- The rear transmitter: `none` is free, `some f` is busy with frame f (R166). -/
  rearTx : Option CanFrame := none
  /-- The tow transmitter: `none` is free, `some f` is busy with frame f (R166). -/
  towTx : Option ForwardFrame := none
  slotRelease : Option Tag := none
  slotInsert : Option Tag := none
  slotService : Option Tag := none
  towDiscards : Nat := 0
  rearDiscards : Nat := 0
  rearOverflows : Nat := 0
  forwardOverflows : Nat := 0
  tooLong : Bool := false
  deriving DecidableEq, Repr

/-! ## Alert and power unit (9.2) -/

/-- One alert record (R174). -/
structure AlertRecord where
  flag : Bool := false
  ack : Bool := false
  deriving DecidableEq, Repr

inductive PowerState where
  | run
  | standby
  | sleep
  deriving DecidableEq, Repr

/-- R184: the reset cause register. -/
structure ResetCause where
  powerOn : Bool := false
  brownOut : Bool := false
  commanded : Bool := false
  deriving DecidableEq, Repr

/-- The alert and power unit with its reset values (R185). `alerts[n]` is the record of rank n + 1; `towPower` is the pin TPWR. -/
structure Apu where
  alerts : Vector AlertRecord 23 := Vector.replicate 23 {}
  lamp : Bool := false
  alertLine : Bool := false
  statusTimer : Timer := none
  configured : Bool := false
  power : PowerState := .run
  towPower : Bool := true
  standbyTimer : Timer := none
  cause : ResetCause := {}
  seconds : Nat := 0
  resetPending : Bool := false
  deriving DecidableEq, Repr

/-! ## Record store (10.1) -/

/-- The six record kinds (10.1), in the order of their codes (11.6). -/
inductive RecordKind where
  | reset
  | table
  | regEntry
  | rollEvent
  | tyreEvent
  | supplyEvent
  deriving DecidableEq, Repr

/-- A record to be written: kind, length in slots, header byte 4 and the data area (11.6). -/
structure Record where
  kind : RecordKind
  length : Nat
  byte4 : Byte
  data : List Byte
  deriving DecidableEq, Repr

/-- The step of a write that comes next (R190 steps 2 to 5). -/
inductive WriteStage where
  | header
  | data (slot : Nat)
  | valid
  | supersede (slot : Nat)
  deriving DecidableEq, Repr

/-- The write in progress: its record, its first slot and its next step (R190). -/
structure WriteJob where
  record : Record
  start : Nat
  stage : WriteStage
  deriving DecidableEq, Repr

/-- R194, R195: an accepted erase waits for a write to end, erases, or rebases; `next` is the next rebase record, 0 to 6 a table,
7 to 26 a registry entry. -/
inductive ErasePhase where
  | waiting
  | erasing
  | rebasing (next : Nat)
  deriving DecidableEq, Repr

structure Erase where
  tag : Tag
  phase : ErasePhase
  deriving DecidableEq, Repr

/-- R193: the read cursor; `passed` says that the record at the slot has been answered (notes/assumptions/13.md). -/
structure Cursor where
  slot : Nat := 0
  kind : Option RecordKind := none
  passed : Bool := false
  deriving DecidableEq, Repr

/-- R192: the restore scan: the next slot to read, the end of the last recognised record, and each table's candidate or factory
default so far. -/
structure Restore where
  next : Nat := 0
  skipTo : Nat := 0
  candidates : Tables := {}
  deriving DecidableEq, Repr

/-- The bytes of the store that differ from what an unlisted byte reads as, by address `16 slot + byte` (10.1). -/
abbrev Memory := List Host.Cell

/-- The record store with its reset values (R196) for a blank store. `restore` is `none` once restore has ended. -/
structure Rst where
  memory : Memory := []
  writePos : Nat := 0
  queue : List Record := []
  writing : Option WriteJob := none
  erase : Option Erase := none
  cursor : Cursor := {}
  drops : Nat := 0
  restore : Option Restore := some {}
  deriving DecidableEq, Repr

/-! ## The machine -/

/-- The whole part: its nine blocks, the commands that wait and the model's ms clock (notes/assumptions/1.md). -/
structure State where
  asv : Asv := {}
  lap : Lap := {}
  wcu : Wcu := {}
  rou : Rou := {}
  twu : Twu := {}
  tbu : Tbu := {}
  lru : Lru := {}
  apu : Apu := {}
  rst : Rst := {}
  clock : Nat := 0
  pending : List Instr := []
  deriving DecidableEq, Repr

/-- The part right after a power-on reset with tow power present and a blank store (R24, R51, R77, R107, R129, R143, R159, R173,
R185, R196; R184 for the cause register). Restore is running; no command waits. -/
def State.reset : State := { apu := { cause := { powerOn := true } } }

/-- How the part can stop. -/
inductive Fault where
  /-- Raised by RECORD_SLOT_WRITTEN when the write in progress stands at a slot of 1,024 or more, an address the spec says does not
  exist (10.1: the slots are numbered 0 to 1,023). Safe: no reachable state has such a write (notes/assumptions/31.md). -/
  | storeAddress
  deriving DecidableEq, Repr

/-- How the part can refuse a command. -/
inductive Refusal where
  /-- Raised by exec for a command that has no meaning yet; safe. No arm of exec answers it in this package. -/
  | notModelled (mnemonic : String)
  deriving DecidableEq, Repr

end Sys2Proof.Machine
end

