-- ==== Sys2Proof/Machine/Ops.lean ====
section
/-! DEFINITION. The named operations over the state: timers, the store's memory, the event in progress with the frames it produces,
queuing and sending on the tow and rear links, alert records, the record store's queue, and a reset. -/

namespace Sys2Proof.Machine

/-! ## Fixed lengths, in ms -/

/-- R2: the air sample timer. -/
def airSampleMs : Nat := 500
/-- R14: the valve timer. -/
def valveMs : Nat := 2000
/-- R15: the time from a MOVING reply to its poll. -/
def pollMs : Nat := 50
/-- R31: the stale timer. -/
def staleMs : Nat := 1000
/-- R32: the fallback timer. -/
def fallbackMs : Nat := 10000
/-- R73: the hold timer of a held service actuation. -/
def serviceHoldMs : Nat := 60000
/-- R78: the lateral timer. -/
def lateralMs : Nat := 200
/-- R111: the repeat window. -/
def repeatMs : Nat := 2000
/-- R119: the missing timer of a moving trailer. -/
def missingMovingMs : Nat := 300000
/-- R119: the missing timer of a slow or standing trailer. -/
def missingStandingMs : Nat := 1200000
/-- R138: the exchange timer. -/
def exchangeMs : Nat := 60000
/-- R178: the status timer. -/
def statusMs : Nat := 100

/-! ## Small arithmetic -/

/-- R3, R171: a count that rises by `n` and saturates at `top`. -/
def satAdd (top c n : Nat) : Nat := min top (c + n)

/-- 5.5: an arriving quantity clamped to 0 to `hi`. -/
def clampTo (hi : Nat) {w : Nat} (x : BitVec w) : Nat := min hi x.toNat

/-- A set element of a vector changed by a function. -/
def modifyAt {α : Type} {n : Nat} (v : Vector α n) (i : Fin n) (f : α → α) : Vector α n := v.set i (f v[i])

/-- The wheel end of an axle and a side: 0 is 1L, 1 is 1R, up to 7, which is 4R. -/
def wheelAxle (w : Fin 8) : Fin 4 := ⟨w.val / 2, by omega⟩

/-- The side of a wheel end. -/
def wheelSide (w : Fin 8) : Side := if w.val % 2 = 0 then .left else .right

/-! ## Timers (5.6) -/

/-- A timer of `ms` started now. -/
def State.timer (s : State) (ms : Nat) : Timer := some { length := ms, since := s.clock }

/-- The whole seconds left on a running timer (notes/assumptions/17.md). -/
def secondsLeft (clock : Nat) (r : Run) : Nat := (r.length - (clock - r.since)) / 1000

/-! ## The store's memory (10.1) -/

/-- What an unlisted byte of the store reads as: a slot mark of 255 is BLANK (11.6; the other bytes: notes/assumptions/7.md). -/
def Memory.blank : Byte := 255

/-- The number of byte addresses of the store: 1,024 slots of 16 bytes (10.1). -/
def Memory.size : Nat := 16384

/-- The canonical form: addresses inside the store and strictly rising, no byte listed that equals the unlisted value. -/
abbrev Memory.wf (m : Memory) : Prop :=
  m.Pairwise (fun p q => p.1 < q.1) ∧ ∀ p ∈ m, p.1 < Memory.size ∧ p.2 ≠ Memory.blank

/-- One byte of the store. -/
def Memory.read : Memory → Nat → Byte
  | [], _ => Memory.blank
  | c :: rest, a => if c.1 = a then c.2 else Memory.read rest a

/-- One byte written, the canonical form kept. -/
def Memory.write : Memory → Nat → Byte → Memory
  | [], a, v => if v = Memory.blank then [] else [(a, v)]
  | c :: rest, a, v =>
    if a < c.1 then (if v = Memory.blank then c :: rest else (a, v) :: c :: rest)
    else if a = c.1 then (if v = Memory.blank then rest else (a, v) :: rest)
    else c :: Memory.write rest a v

/-- The bytes of slot `n`. -/
def Memory.readSlot (m : Memory) (n : Nat) : SlotBytes := Vector.ofFn fun b => m.read (16 * n + b.val)

/-- Slot `n` written with 16 bytes. -/
def Memory.writeSlot (m : Memory) (n : Nat) (bytes : SlotBytes) : Memory :=
  (List.finRange 16).foldl (fun acc b => acc.write (16 * n + b.val) bytes[b]) m

/-- R192: the write position restore finds: the slot after the last slot that is not BLANK, or 0. -/
def Memory.writePosition (m : Memory) : Nat :=
  m.foldl (fun p c =>
    if c.1 % 16 = 0 ∧ c.1 < Memory.size ∧ c.2 ≠ Memory.blank then max p (c.1 / 16 + 1) else p) 0

/-! ## Results, reasons and answers (R167, 11.2) -/

/-- The results of R167. -/
inductive Result where
  | done
  | accepted
  | held
  | refused
  | failed
  | timeout
  | cancelled
  | none
  deriving DecidableEq, Repr

/-- 11.2: the result codes. -/
def Result.code : Result → Byte
  | .done => 1
  | .accepted => 2
  | .held => 3
  | .refused => 4
  | .failed => 5
  | .timeout => 6
  | .cancelled => 7
  | .none => 8

/-- The reasons of R167, and the number of a failed validation check (11.2). -/
inductive Reason where
  | noReason
  | badArgument
  | noSuchEntry
  | busy
  | moving
  | braking
  | notParked
  | lowReservoir
  | duplicate
  | storeFull
  | notReady
  | unknownRequest
  | check (n : Nat)
  deriving DecidableEq, Repr

/-- 11.2: the reason byte. -/
def Reason.code : Reason → Byte
  | .noReason => 0
  | .badArgument => 1
  | .noSuchEntry => 2
  | .busy => 3
  | .moving => 4
  | .braking => 5
  | .notParked => 6
  | .lowReservoir => 7
  | .duplicate => 8
  | .storeFull => 10
  | .notReady => 11
  | .unknownRequest => 12
  | .check n => BitVec.ofNat 8 (16 + n)

/-- An answer that an event produces, before it is queued forward (R167, R168); `resetDone` marks the DONE of RESET (R186). -/
structure Answer where
  tag : Tag
  result : Result
  reason : Reason := .noReason
  data : List Byte := []
  resetDone : Bool := false
  deriving DecidableEq, Repr

/-- An ALERT frame that an event produces: the kind by its record's index, SET or CLEARED (R177). -/
structure Notice where
  kind : Fin 23
  set : Bool
  deriving DecidableEq, Repr

/-- An event in progress: the state as changed so far and the frames the event has produced. R166 queues the answers first, in
order, and the ALERT frames after them. `resetNow` says that the commanded reset takes place in this event (R186). -/
structure Ev extends State where
  answers : List Answer := []
  notices : List Notice := []
  resetNow : Bool := false
  deriving DecidableEq, Repr

/-- What a command's meaning answers. -/
abbrev Outcome := Host.Outcome State Fault Refusal

/-- An event begins. -/
def Ev.start (s : State) : Ev := { toState := s }

def Ev.setAsv (e : Ev) (x : Asv) : Ev := { e with asv := x }
def Ev.setLap (e : Ev) (x : Lap) : Ev := { e with lap := x }
def Ev.setWcu (e : Ev) (x : Wcu) : Ev := { e with wcu := x }
def Ev.setRou (e : Ev) (x : Rou) : Ev := { e with rou := x }
def Ev.setTwu (e : Ev) (x : Twu) : Ev := { e with twu := x }
def Ev.setTbu (e : Ev) (x : Tbu) : Ev := { e with tbu := x }
def Ev.setLru (e : Ev) (x : Lru) : Ev := { e with lru := x }
def Ev.setApu (e : Ev) (x : Apu) : Ev := { e with apu := x }
def Ev.setRst (e : Ev) (x : Rst) : Ev := { e with rst := x }

/-- An answer is produced, after those the event has produced already. -/
def Ev.answer (e : Ev) (a : Answer) : Ev := { e with answers := e.answers ++ [a] }

/-- An ALERT frame is produced, after those the event has produced already. -/
def Ev.notice (e : Ev) (n : Notice) : Ev := { e with notices := e.notices ++ [n] }

/-- A result without reason or data for a tag. -/
def Ev.result (e : Ev) (tag : Tag) (r : Result) : Ev := e.answer { tag := tag, result := r }

/-- R167: a request not taken, with its reason. -/
def Ev.refuse (e : Ev) (tag : Tag) (r : Reason) : Ev := e.answer { tag := tag, result := .refused, reason := r }

/-- A completion for a requester, if there is one. -/
def Ev.complete (e : Ev) (tag : Option Tag) (r : Result) : Ev :=
  match tag with
  | some t => e.result t r
  | none => e

/-! ## Frames (11.1, 11.2) -/

/-- A tow or rear link identifier: kind in bits 10 to 7, position in bits 6 to 3. -/
def linkId (kind position : Nat) : BitVec 11 := BitVec.ofNat 11 (kind * 128 + position * 8)

/-- Up to eight bytes as a frame's data, the unused bytes 0 (R198). -/
def packBytes (l : List Byte) : BitVec 64 :=
  BitVec.ofNat 64 (((l ++ List.replicate 8 0).take 8).foldl (fun acc (b : Byte) => acc * 256 + b.toNat) 0)

/-- R168: data beyond the RESPONSE in pieces of six bytes. -/
def pieces : Nat → List Byte → List (List Byte)
  | 0, _ => []
  | _ + 1, [] => []
  | n + 1, b :: l => (b :: l).take 6 :: pieces n ((b :: l).drop 6)

/-- R168: the CONTINUATION frames of an answer, numbered from `n`. -/
def continuations (position : Nat) (tag : Tag) : Nat → List (List Byte) → List ForwardFrame
  | _, [] => []
  | n, p :: ps =>
    { frame := { id := linkId 9 position, data := packBytes (tag :: BitVec.ofNat 8 n :: p) } } ::
      continuations position tag (n + 1) ps

/-- R167, R168: the RESPONSE frame of an answer and the CONTINUATION frames after it. -/
def Answer.frames (position : Nat) (a : Answer) : List ForwardFrame :=
  { frame := { id := linkId 8 position,
               data := packBytes (a.tag :: a.result.code :: a.reason.code :: a.data.take 5) },
    resetDone := a.resetDone } ::
    continuations position a.tag 1 (pieces a.data.length (a.data.drop 5))

/-- R177: an ALERT frame. -/
def Notice.frame (position : Nat) (n : Notice) : ForwardFrame :=
  { frame := { id := linkId 11 position,
               data := packBytes [BitVec.ofNat 8 (n.kind.val + 1), if n.set then 1 else 0] } }

/-! ## Alert records (9.3, 9.4) -/

/-- The 23 alert kinds in the order of their ranks (9.1). -/
inductive AlertKind where
  | breakaway
  | linkLost
  | rollIntervention
  | channelLost
  | channelFault
  | parkFault
  | tyreDeflated
  | lowReservoir
  | rollSensorLost
  | airSensorLost
  | loadSensorStale
  | tyreLowAlarm
  | tyreHot
  | overload
  | tyreLowWarn
  | tyreHigh
  | tyreMissing
  | sensorBattery
  | tableInsertFailed
  | storeFull
  | storeFault
  | relayOverflow
  | combinationTooLong
  deriving DecidableEq, Repr

/-- The index of a kind's record: its rank less one (9.1). -/
def AlertKind.index : AlertKind → Fin 23
  | .breakaway => 0
  | .linkLost => 1
  | .rollIntervention => 2
  | .channelLost => 3
  | .channelFault => 4
  | .parkFault => 5
  | .tyreDeflated => 6
  | .lowReservoir => 7
  | .rollSensorLost => 8
  | .airSensorLost => 9
  | .loadSensorStale => 10
  | .tyreLowAlarm => 11
  | .tyreHot => 12
  | .overload => 13
  | .tyreLowWarn => 14
  | .tyreHigh => 15
  | .tyreMissing => 16
  | .sensorBattery => 17
  | .tableInsertFailed => 18
  | .storeFull => 19
  | .storeFault => 20
  | .relayOverflow => 21
  | .combinationTooLong => 22

/-- 9.1: the five event alerts; the other kinds are condition alerts. -/
def isEventAlert (k : Fin 23) : Bool :=
  k = AlertKind.rollIntervention.index || k = AlertKind.parkFault.index || k = AlertKind.tableInsertFailed.index ||
    k = AlertKind.storeFault.index || k = AlertKind.relayOverflow.index

/-- R176: an alert is pending while its flag is set and it is enabled in the active ALERT table. -/
def State.isPending (s : State) (k : Fin 23) : Bool := s.apu.alerts[k].flag && s.tbu.active.alert[k].enable

/-- R176: the lamp request. -/
def State.lampRequest (s : State) : Bool :=
  (List.finRange 23).any fun k => s.isPending k && s.tbu.active.alert[k].urgent && !s.apu.alerts[k].ack

/-- R176: the lamp request is re-formed, and the alert line follows it except in SLEEP. -/
def Ev.reformLamp (e : Ev) : Ev :=
  e.setApu { e.apu with lamp := e.lampRequest, alertLine := e.lampRequest && e.apu.power != .sleep }

/-- R177: an ALERT frame is produced for a change of the flag of an enabled URGENT alert. -/
def Ev.noticeOf (e : Ev) (k : Fin 23) (set : Bool) : Ev :=
  if e.tbu.active.alert[k].enable && e.tbu.active.alert[k].urgent then e.notice { kind := k, set := set } else e

/-- R174: a condition begins or an event occurs; nothing changes while the flag is set. -/
def Ev.raiseAlert (e : Ev) (k : Fin 23) : Ev :=
  if e.apu.alerts[k].flag then e
  else (((e.setApu { e.apu with alerts := e.apu.alerts.set k { flag := true, ack := false } }).noticeOf k true).reformLamp)

/-- R174, R175: a condition ends or an event alert is acknowledged; nothing changes while the flag is clear. -/
def Ev.clearAlert (e : Ev) (k : Fin 23) : Ev :=
  if e.apu.alerts[k].flag then
    ((e.setApu { e.apu with alerts := e.apu.alerts.set k { flag := false, ack := false } }).noticeOf k false).reformLamp
  else e

/-- R174: an occurrence of an event alert. -/
def Ev.occur (e : Ev) (k : AlertKind) : Ev := e.raiseAlert k.index

/-- R174: an owner hands a condition as holding or as ended. -/
def Ev.handCondition (e : Ev) (k : AlertKind) (holds : Bool) : Ev :=
  if holds then e.raiseAlert k.index else e.clearAlert k.index

/-! ## Queues and transmitters of the tow and rear links (8.6) -/

/-- R166: the length of the forward queue. -/
def forwardCapacity : Nat := 24

/-- R166: the length of the rear queue. -/
def rearCapacity : Nat := 8

/-- R166, R172: the tow transmitter, when free in RUN, takes the oldest frame of the forward queue. -/
def Ev.pumpTow (e : Ev) : Ev :=
  match e.lru.towTx, e.apu.power, e.lru.forwardQueue with
  | none, .run, f :: rest => e.setLru { e.lru with towTx := some f, forwardQueue := rest }
  | _, _, _ => e

/-- R166, R172: the rear transmitter, when free in RUN, takes the demand slot's frame, otherwise the oldest frame of the rear
queue. -/
def Ev.pumpRear (e : Ev) : Ev :=
  match e.lru.rearTx, e.apu.power, e.lru.demandSlot, e.lru.rearQueue with
  | none, .run, some f, _ => e.setLru { e.lru with rearTx := some f, demandSlot := none }
  | none, .run, none, f :: rest => e.setLru { e.lru with rearTx := some f, rearQueue := rest }
  | _, _, _, _ => e

/-- R166, R168: frames are queued forward together, or dropped and counted together. -/
def Ev.queueForward (e : Ev) (fs : List ForwardFrame) : Ev :=
  if e.lru.forwardQueue.length + fs.length ≤ forwardCapacity then
    (e.setLru { e.lru with forwardQueue := e.lru.forwardQueue ++ fs }).pumpTow
  else
    (e.setLru { e.lru with forwardOverflows := satAdd 65535 e.lru.forwardOverflows fs.length }).occur .relayOverflow

/-- R166: a frame is queued rearward, or dropped and counted. -/
def Ev.queueRear (e : Ev) (f : CanFrame) : Ev :=
  if e.lru.rearQueue.length < rearCapacity then
    (e.setLru { e.lru with rearQueue := e.lru.rearQueue ++ [f] }).pumpRear
  else
    (e.setLru { e.lru with rearOverflows := satAdd 65535 e.lru.rearOverflows 1 }).occur .relayOverflow

/-- The answers of the event are queued in order (R166). -/
def Ev.queueAnswers (e : Ev) : Ev :=
  e.answers.foldl (fun acc a => acc.queueForward (a.frames acc.lru.position)) { e with answers := [] }

/-- The ALERT frames of the event are queued in order (R166); a drop of one may produce another. -/
def Ev.queueNotices (e : Ev) : Ev :=
  e.notices.foldl (fun acc n => acc.queueForward [n.frame acc.lru.position]) { e with notices := [] }

/-- The event ends: its answers are queued, then its ALERT frames, then the one ALERT frame that a drop among them may have produced
(R166). In STANDBY and SLEEP they are dropped uncounted (R172). -/
def Ev.flush (e : Ev) : State :=
  if e.apu.power = .run then e.queueAnswers.queueNotices.queueNotices.toState else e.toState

/-! ## The record store's queue (10.2, 10.3) -/

/-- R188: the length of the write queue. -/
def writeCapacity : Nat := 8

/-- The number of slots (10.1). -/
def slotCount : Nat := 1024

/-- 10.1: the remaining slots less the lengths of the records waiting. -/
def State.freeSlots (s : State) : Nat := slotCount - s.rst.writePos - (s.rst.queue.map (·.length)).sum

/-- R188: room for a set of records of the given lengths. -/
def State.roomFor (s : State) (lengths : List Nat) : Bool :=
  s.rst.queue.length + lengths.length ≤ writeCapacity && s.rst.erase.isNone && lengths.sum ≤ s.freeSlots

/-- R188: a record joins the write queue at its back. -/
def Ev.queueRecord (e : Ev) (r : Record) : Ev := e.setRst { e.rst with queue := e.rst.queue ++ [r] }

/-- R188: an event record is queued if it has what it needs, and is dropped and counted otherwise. -/
def Ev.queueEvent (e : Ev) (r : Record) : Ev :=
  if (if e.rst.erase.isSome then decide (e.rst.queue.length < writeCapacity) else e.roomFor [r.length]) then e.queueRecord r
  else e.setRst { e.rst with drops := satAdd 65535 e.rst.drops 1 }

/-- R190 step 1: a record takes its slots and its write begins. -/
def Rst.takeSlots (x : Rst) (r : Record) : Rst :=
  { x with writing := some { record := r, start := x.writePos, stage := .header }, writePos := x.writePos + r.length }

/-- R190: the write of the record at the front of the queue begins when no write is in progress, no erase or rebase is in flight
and restore has ended. -/
def Ev.beginWrite (e : Ev) : Ev :=
  match e.rst.writing, e.rst.erase, e.rst.restore, e.rst.queue with
  | none, none, none, r :: rest => e.setRst ({ e.rst with queue := rest }.takeSlots r)
  | _, _, _, _ => e

/-! ## Resets (R183, R184) -/

/-- A reset with tow power present or absent and the reset cause register as given: every block takes its reset values, the slots
are as the reset left them, and restore begins by finding the write position (R192, R196). -/
def State.restart (s : State) (towPower : Bool) (cause : ResetCause) : State :=
  { apu := { power := if towPower then .run else .standby, towPower := towPower, cause := cause },
    rst := { memory := s.rst.memory, writePos := s.rst.memory.writePosition },
    clock := s.clock, pending := s.pending }

/-- R184, R186: the commanded reset. -/
def State.commandedReset (s : State) : State := s.restart s.apu.towPower { s.apu.cause with commanded := true }

/-- An event ends with its frames queued, and with the commanded reset when it takes place in this event (R186). -/
def Ev.conclude (e : Ev) : Host.Outcome State Fault Refusal :=
  .next (if e.resetNow then e.toState.commandedReset else e.flush)

end Sys2Proof.Machine
end

