-- ==== Sys2Proof/Machine/Operands.lean ====
section
/-! DEFINITION. Every operand form and every layout of chapter 11: request arguments, bindings, table entries with the ranges of 7.2,
record layouts, state codes and the encodings of absent values. -/

namespace Sys2Proof.Machine

/-! ## Bytes (chapter 11: most significant byte first) -/

/-- A quantity as two bytes. -/
def be16 (n : Nat) : List Byte := [BitVec.ofNat 8 (n / 256), BitVec.ofNat 8 n]

/-- A quantity as four bytes. -/
def be32 (n : Nat) : List Byte :=
  [BitVec.ofNat 8 (n / 16777216), BitVec.ofNat 8 (n / 65536), BitVec.ofNat 8 (n / 256), BitVec.ofNat 8 n]

/-- R198: an absent 16-bit quantity is 65,535. -/
def be16Opt (n : Option Nat) : List Byte := be16 (n.getD 65535)

/-- The number that bytes spell, the first most significant. -/
def fromBytes (l : List Byte) : Nat := l.foldl (fun acc (b : Byte) => acc * 256 + b.toNat) 0

/-- A flag as a bit. -/
def bit (b : Bool) : Nat := if b then 1 else 0

end Sys2Proof.Machine

namespace Sys2Proof

open Sys2Proof.Machine

/-! ## Requests (8.5, 11.2) -/

/-- The hold flag: bit 0 of byte 2. -/
def Request.hold (r : Request) : Bool := r.flags.toNat % 2 = 1

/-- Argument byte `i` of five; byte 3 of the frame is argument byte 0. -/
def Request.arg (r : Request) (i : Nat) : Nat := r.args.toNat / 256 ^ (4 - i) % 256

/-- Two argument bytes as one quantity. -/
def Request.arg16 (r : Request) (i : Nat) : Nat := r.arg i * 256 + r.arg (i + 1)

/-- The identifier argument of ASSIGN: bytes 4 to 7. -/
def Request.identArg (r : Request) : BitVec 32 := BitVec.ofNat 32 r.args.toNat

/-- The REQUEST frame as it arrived (11.2). -/
def Request.frame (code : Byte) (r : Request) : CanFrame :=
  { id := linkId 2 r.target.toNat,
    data := BitVec.ofNat 64 (((r.tag.toNat * 256 + code.toNat) * 256 + r.flags.toNat) * 2 ^ 40 + r.args.toNat) }

/-- The TABLE_WRITE frame as it arrived (11.2). -/
def TableWriteFrame.frame (w : TableWriteFrame) : CanFrame :=
  { id := linkId 3 w.target.toNat,
    data := BitVec.ofNat 64 (((w.tag.toNat * 8 + w.table.toNat) * 32 + w.entry.toNat) * 2 ^ 48 + w.area.toNat) }

/-- The frame of either addressed kind. -/
def RearwardFrame.frame : RearwardFrame → CanFrame
  | .request code r => Request.frame code r
  | .tableWrite w => w.frame

/-- The target position of either addressed kind. -/
def RearwardFrame.target : RearwardFrame → Nat
  | .request _ r => r.target.toNat
  | .tableWrite w => w.target.toNat

/-- The tag of either addressed kind. -/
def RearwardFrame.tag : RearwardFrame → Tag
  | .request _ r => r.tag
  | .tableWrite w => w.tag

/-- The copy of a DEMAND frame for the rear link: hop one higher, the other fields as they arrived, bytes 5 to 7 zero (R161,
notes/assumptions/33.md). -/
def demandCopy (pressure : BitVec 16) (hop seq : BitVec 4) (speed : BitVec 16) : CanFrame :=
  { id := linkId 1 0,
    data := packBytes (be16 pressure.toNat ++ [BitVec.ofNat 8 ((hop.toNat + 1) * 16 + seq.toNat)] ++ be16 speed.toNat) }

/-! ## Frames received on the tow and rear links (R160, R197) -/

/-- The kind bits of a tow or rear link identifier. -/
def RxFrame.kind (f : RxFrame) : Nat := f.id.toNat / 128

/-- R160, R197: a frame is malformed when its identifier names no kind of these links, when its bits 2 to 0 are not 0, or when its
data length is not 8. -/
def RxFrame.malformed (f : RxFrame) : Bool :=
  !([1, 2, 3, 8, 9, 10, 11].contains f.kind) || f.id.toNat % 8 != 0 || f.len != 8

/-- R160: the kinds that flow forward: RESPONSE, CONTINUATION, STATUS, ALERT. -/
def RxFrame.forwardKind (f : RxFrame) : Bool := [8, 9, 10, 11].contains f.kind

end Sys2Proof

namespace Sys2Proof.Machine

/-! ## Bindings (11.2) -/

/-- The code of a binding: 1 to 16 a tyre position, 17 to 20 a spare slot. -/
def Binding.code : Binding → Nat
  | .tyre a s p => a.val * 4 + (if s = .right then 2 else 0) + (if p = .inner then 1 else 0) + 1
  | .spare n => 17 + n.val

/-- The binding of a code; 0 and codes from 21 on name none (R197). -/
def Binding.ofCode (n : Nat) : Option Binding :=
  if h : 1 ≤ n ∧ n ≤ 16 then
    some (.tyre ⟨(n - 1) / 4, by omega⟩ (if (n - 1) % 4 < 2 then .left else .right) (if (n - 1) % 2 = 0 then .outer else .inner))
  else if h : 17 ≤ n ∧ n ≤ 20 then some (.spare ⟨n - 17, by omega⟩)
  else none

/-- R198: an absent binding is 0. -/
def bindingByte (b : Option Binding) : Byte := BitVec.ofNat 8 ((b.map Binding.code).getD 0)

/-- 6.1: 0 and all-ones are no identifiers. -/
def validIdent (x : BitVec 32) : Bool := x != 0 && x != BitVec.allOnes 32

/-! ## State codes (11.2) -/

def SupplyState.code : SupplyState → Nat
  | .undetermined => 0
  | .parked => 1
  | .charging => 2
  | .ready => 3
  | .emergency => 4

def Stability.code : Stability → Nat
  | .quiet => 0
  | .watch => 1
  | .probe => 2
  | .intervene => 3
  | .holdoff => 4
  | .off _ => 5

def Level.code : Level → Nat
  | .unknown => 0
  | .normal => 1
  | .lowWarn => 2
  | .lowAlarm => 3
  | .deflated => 4
  | .high => 5
  | .missing => 6

def PowerState.code : PowerState → Nat
  | .run => 0
  | .standby => 1
  | .sleep => 2

def TrainPhase.code : TrainPhase → Nat
  | .off => 0
  | .pulse => 1
  | .gap => 2

def ValveKind.code : ValveKind → Byte
  | .apply => 1
  | .release => 2
  | .query => 3

def LinkState.bit : LinkState → Nat
  | .linked => 1
  | .unlinked => 0

/-- The reset cause register: POWER_ON bit 0, BROWN_OUT bit 1, COMMANDED bit 2 (11.6). -/
def ResetCause.byte (c : ResetCause) : Byte := BitVec.ofNat 8 (bit c.powerOn + 2 * bit c.brownOut + 4 * bit c.commanded)

/-! ## Table entries (7.2, 11.5) -/

def TableId.code : TableId → Nat
  | .axle => 1
  | .load => 2
  | .channel => 3
  | .roll => 4
  | .tyre => 5
  | .supply => 6
  | .alert => 7

/-- R197: a table code of 0 or above 7 names no table. -/
def TableId.ofCode : Nat → Option TableId
  | 1 => some .axle
  | 2 => some .load
  | 3 => some .channel
  | 4 => some .roll
  | 5 => some .tyre
  | 6 => some .supply
  | 7 => some .alert
  | _ => none

/-- One field of a table entry: its width in bits (11.5) and its range (7.2). -/
structure Field where
  bits : Nat
  lo : Nat
  hi : Nat
  deriving DecidableEq, Repr

/-- A flag or a two-valued enumeration. -/
def Field.flag : Field := ⟨1, 0, 1⟩

/-- The fields of an entry in the order and widths of 11.5 with the ranges of 7.2; `none` for an entry the table lacks. The count
field of a LOAD entry is a field of the first entry of each axle only (R146). -/
def entryLayout : TableId → Nat → Option (List Field)
  | .axle, e =>
    if 1 ≤ e ∧ e ≤ 4 then some [.flag, .flag, ⟨7, 0, 100⟩, ⟨11, 100, 2000⟩, ⟨10, 100, 1000⟩, ⟨10, 100, 1000⟩] else none
  | .load, e =>
    if e ≤ 31 then some ([⟨10, 0, 1000⟩, ⟨12, 0, 3000⟩] ++ if e % 8 = 0 then [⟨4, 0, 8⟩] else []) else none
  | .channel, e =>
    if e = 0 then some [.flag, ⟨6, 0, 50⟩, ⟨9, 50, 500⟩]
    else if e ≤ 6 then some [.flag, .flag, .flag, .flag, .flag, .flag, ⟨5, 1, 30⟩] else none
  | .roll, e =>
    if e = 0 then some [.flag, .flag, ⟨3, 0, 6⟩, ⟨11, 0, 1500⟩, ⟨11, 0, 1500⟩]
    else if e ≤ 6 then some [⟨14, 0, 12000⟩, ⟨11, 0, 1500⟩]
    else if e = 7 then some [⟨10, 1, 999⟩, ⟨10, 1, 999⟩, ⟨10, 1, 999⟩, ⟨10, 1, 999⟩, ⟨7, 0, 100⟩]
    else if e = 8 then some [⟨10, 1, 1000⟩, ⟨4, 0, 8⟩, ⟨10, 50, 1000⟩, .flag]
    else if e = 9 then some [⟨10, 0, 1000⟩, ⟨10, 0, 1000⟩, ⟨14, 100, 10000⟩]
    else if e = 10 then some [⟨10, 1, 1000⟩, ⟨10, 20, 1000⟩, ⟨15, 100, 30000⟩] else none
  | .tyre, e =>
    if e = 0 then some [⟨10, 1, 999⟩, ⟨10, 1, 999⟩, ⟨10, 1, 999⟩]
    else if e ≤ 4 then some [⟨11, 200, 1200⟩, ⟨10, 150, 1000⟩]
    else if e = 5 then some [⟨11, 1001, 2000⟩, ⟨7, 0, 100⟩, ⟨8, 40, 150⟩, ⟨8, 1, 168⟩] else none
  | .supply, e =>
    if e = 0 then some [⟨10, 100, 500⟩, ⟨10, 150, 800⟩, ⟨10, 300, 1000⟩, ⟨10, 300, 1000⟩]
    else if e = 1 then some [⟨10, 100, 1000⟩, ⟨9, 60, 500⟩, ⟨7, 10, 120⟩, ⟨9, 10, 300⟩] else none
  | .alert, e => if 1 ≤ e ∧ e ≤ 23 then some [.flag, .flag] else none

/-- The entry numbers of a table, in order. -/
def entryNumbers : TableId → List Nat
  | .axle => (List.range 4).map (· + 1)
  | .load => List.range 32
  | .channel => List.range 7
  | .roll => List.range 11
  | .tyre => List.range 6
  | .supply => List.range 2
  | .alert => (List.range 23).map (· + 1)

/-- LEFT 0, RIGHT 1. -/
def Side.bit : Side → Nat
  | .left => 0
  | .right => 1

/-- The field values of an entry, in the order of `entryLayout`. -/
def entryValues (t : Tables) : TableId → Nat → List Nat
  | .axle, e =>
    match t.axle[e - 1]? with
    | some a => [bit a.present, bit a.twin, a.p0, a.lRated, a.rMin, a.fallback]
    | none => []
  | .load, e =>
    match t.load.points[e]?, t.load.counts[e / 8]? with
    | some p, some n => [p.bag, p.load] ++ if e % 8 = 0 then [n] else []
    | _, _ => []
  | .channel, 0 => [if t.channel.mode = .rotating then 1 else 0, t.channel.deadband, t.channel.refresh]
  | .channel, e + 1 =>
    match t.channel.entries[e]? with
    | some c => [bit c.present, c.side.bit, bit c.axles[0], bit c.axles[1], bit c.axles[2], bit c.axles[3], c.node]
    | none => []
  | .roll, 0 => [bit t.roll.enabled, bit t.roll.shadow, t.roll.count, t.roll.aFloor, t.roll.vMin]
  | .roll, 7 => [t.roll.watch, t.roll.probe, t.roll.exit, t.roll.lift, t.roll.step]
  | .roll, 8 => [t.roll.probePressure, t.roll.probeCount, t.roll.pulseLength, bit t.roll.rep]
  | .roll, 9 => [t.roll.outer, t.roll.inner, t.roll.hold]
  | .roll, 10 => [t.roll.rampStep, t.roll.rampInterval, t.roll.lockout]
  | .roll, e =>
    match t.roll.points[e - 1]? with
    | some p => [p.load, p.threshold]
    | none => []
  | .tyre, 0 => [t.tyre.warn, t.tyre.alarm, t.tyre.deflate]
  | .tyre, 5 => [t.tyre.high, t.tyre.hysteresis, t.tyre.hotLimit, t.tyre.standbyLimit]
  | .tyre, e =>
    match t.tyre.axles[e - 1]? with
    | some a => [a.pRef, a.derate]
    | none => []
  | .supply, 0 => [t.supply.emergency, t.supply.recovery, t.supply.ready, t.supply.release]
  | .supply, _ => [t.supply.emergencyDemand, t.supply.linkTimeout, t.supply.autoParkDelay, t.supply.releaseHold]
  | .alert, e =>
    match t.alert[e - 1]? with
    | some a => [bit a.enable, if a.urgent then 0 else 1]
    | none => []

/-- An entry replaced by field values in the order of `entryLayout`; values of another number change nothing. -/
def withEntry (t : Tables) : TableId → Nat → List Nat → Tables
  | .axle, e, [present, twin, p0, lRated, rMin, fallback] =>
    let entry : AxleEntry :=
      { present := present = 1, twin := twin = 1, p0 := p0, lRated := lRated, rMin := rMin, fallback := fallback }
    { t with axle := t.axle.setIfInBounds (e - 1) entry }
  | .load, e, [bag, load] => { t with load := { t.load with points := t.load.points.setIfInBounds e { bag := bag, load := load } } }
  | .load, e, [bag, load, count] =>
    { t with load := { points := t.load.points.setIfInBounds e { bag := bag, load := load },
                       counts := t.load.counts.setIfInBounds (e / 8) count } }
  | .channel, 0, [mode, deadband, refresh] =>
    { t with channel := { t.channel with mode := if mode = 1 then .rotating else .fixed, deadband := deadband, refresh := refresh } }
  | .channel, e + 1, [present, side, a1, a2, a3, a4, node] =>
    let entry : ChannelEntry :=
      { present := present = 1, side := if side = 1 then .right else .left,
        axles := #v[decide (a1 = 1), decide (a2 = 1), decide (a3 = 1), decide (a4 = 1)], node := node }
    { t with channel := { t.channel with entries := t.channel.entries.setIfInBounds e entry } }
  | .roll, 0, [enabled, shadow, count, aFloor, vMin] =>
    { t with roll := { t.roll with enabled := enabled = 1, shadow := shadow = 1, count := count, aFloor := aFloor, vMin := vMin } }
  | .roll, 7, [watch, probe, exit, lift, step] =>
    { t with roll := { t.roll with watch := watch, probe := probe, exit := exit, lift := lift, step := step } }
  | .roll, 8, [pressure, count, pulse, rep] =>
    { t with roll := { t.roll with probePressure := pressure, probeCount := count, pulseLength := pulse, rep := rep = 1 } }
  | .roll, 9, [outer, inner, hold] => { t with roll := { t.roll with outer := outer, inner := inner, hold := hold } }
  | .roll, 10, [step, interval, lockout] =>
    { t with roll := { t.roll with rampStep := step, rampInterval := interval, lockout := lockout } }
  | .roll, e, [load, threshold] =>
    { t with roll := { t.roll with points := t.roll.points.setIfInBounds (e - 1) { load := load, threshold := threshold } } }
  | .tyre, 0, [warn, alarm, deflate] => { t with tyre := { t.tyre with warn := warn, alarm := alarm, deflate := deflate } }
  | .tyre, 5, [high, hysteresis, hotLimit, standbyLimit] =>
    { t with tyre := { t.tyre with high := high, hysteresis := hysteresis, hotLimit := hotLimit, standbyLimit := standbyLimit } }
  | .tyre, e, [pRef, derate] =>
    { t with tyre := { t.tyre with axles := t.tyre.axles.setIfInBounds (e - 1) { pRef := pRef, derate := derate } } }
  | .supply, 0, [emergency, recovery, ready, release] =>
    { t with supply := { t.supply with emergency := emergency, recovery := recovery, ready := ready, release := release } }
  | .supply, 1, [demand, link, park, hold] =>
    { t with supply := { t.supply with emergencyDemand := demand, linkTimeout := link, autoParkDelay := park, releaseHold := hold } }
  | .alert, e, [enable, level] => { t with alert := t.alert.setIfInBounds (e - 1) { enable := enable = 1, urgent := level = 0 } }
  | _, _, _ => t

/-- The number of bits of an entry's fields. -/
def layoutBits (fs : List Field) : Nat := (fs.map (·.bits)).sum

/-- 11.5: the fields packed from the most significant bit down into a 48-bit field area, the remaining low bits 0. -/
def packArea (fs : List Field) (vs : List Nat) : Nat :=
  (fs.zip vs).foldl (fun acc fv => acc * 2 ^ fv.1.bits + fv.2) 0 * 2 ^ (48 - layoutBits fs)

/-- The field values of an area of which `n` bits remain. -/
def unpackBits : List Field → Nat → Nat → List Nat
  | [], _, _ => []
  | f :: fs, n, x => x / 2 ^ (n - f.bits) % 2 ^ f.bits :: unpackBits fs (n - f.bits) x

/-- 11.5: the field values of a 48-bit field area. -/
def unpackArea (fs : List Field) (area : Nat) : List Nat := unpackBits fs 48 area

/-- R146: every field lies within its range. -/
def inRanges (fs : List Field) (vs : List Nat) : Bool := (fs.zip vs).all fun fv => decide (fv.1.lo ≤ fv.2) && decide (fv.2 ≤ fv.1.hi)

/-- The field area of an entry as six bytes. -/
def areaBytes (area : Nat) : List Byte :=
  (List.range 6).map fun i => BitVec.ofNat 8 (area / 256 ^ (5 - i))

/-- The field area of an entry of a copy. -/
def entryArea (t : Tables) (id : TableId) (e : Nat) : Nat :=
  match entryLayout id e with
  | some fs => packArea fs (entryValues t id e)
  | none => 0

/-- The leading whole bytes of an entry's field area that hold its fields (11.6). -/
def entryByteCount (id : TableId) (e : Nat) : Nat :=
  match entryLayout id e with
  | some fs => (layoutBits fs + 7) / 8
  | none => 0

/-! ## Records (11.6) -/

def RecordKind.code : RecordKind → Nat
  | .reset => 1
  | .table => 2
  | .regEntry => 3
  | .rollEvent => 4
  | .tyreEvent => 5
  | .supplyEvent => 6

/-- The record kinds that a kind byte can name. -/
def RecordKind.ofCode : Nat → Option RecordKind
  | 1 => some .reset
  | 2 => some .table
  | 3 => some .regEntry
  | 4 => some .rollEvent
  | 5 => some .tyreEvent
  | 6 => some .supplyEvent
  | _ => none

/-- The length of the data area of a record of `length` slots. -/
def dataAreaLength (length : Nat) : Nat := 11 + 15 * (length - 1)

/-- A record with its data area filled out with 0. -/
def mkRecord (kind : RecordKind) (length : Nat) (byte4 : Byte) (data : List Byte) : Record :=
  { kind := kind, length := length, byte4 := byte4,
    data := (data ++ List.replicate (dataAreaLength length) 0).take (dataAreaLength length) }

/-- R155: the slots of a TABLE record. -/
def tableSlots : TableId → Nat
  | .axle => 3
  | .load => 9
  | .channel => 3
  | .roll => 5
  | .tyre => 3
  | .supply => 2
  | .alert => 3

/-- 11.6: a table's content as a TABLE record carries it. -/
def tableData (t : Tables) (id : TableId) : List Byte :=
  (entryNumbers id).flatMap fun e => (areaBytes (entryArea t id e)).take (entryByteCount id e)

/-- R155: the TABLE record of a table. -/
def tableRecord (t : Tables) (id : TableId) : Record := mkRecord .table (tableSlots id) (BitVec.ofNat 8 id.code) (tableData t id)

/-- The entries of a stored table read in order from the bytes that are left; a field the bytes do not reach takes a free value
(notes/assumptions/4.md). -/
def readEntries (id : TableId) : List Nat → List Byte → Tables → Tables
  | [], _, t => t
  | e :: es, bytes, t =>
    let n := entryByteCount id e
    let fs := (entryLayout id e).getD []
    let vs :=
      if n ≤ bytes.length then unpackArea fs (fromBytes (bytes.take n) * 256 ^ (6 - n))
      else (List.range fs.length).map (Config.freeField id.code e)
    readEntries id es (bytes.drop n) (withEntry t id e vs)

/-- 11.6: a table replaced by the content of a stored TABLE record. -/
def tableOfData (t : Tables) (id : TableId) (data : List Byte) : Tables := readEntries id (entryNumbers id) data t

/-- R131: the REG_ENTRY record of an entry as it stands. -/
def regRecord (i : Fin 20) (b : Option Bound) : Record :=
  mkRecord .regEntry 1 0
    (BitVec.ofNat 8 (i.val + 1) :: be32 ((b.map (·.ident.toNat)).getD 0) ++ [bindingByte (b.map (·.binding))])

/-- R192: the RESET record. -/
def resetRecord (seconds : Nat) (c : ResetCause) : Record := mkRecord .reset 1 0 (be32 seconds ++ [c.byte])

/-- R21: the kinds of a SUPPLY_EVENT record, with the codes of 11.6. -/
inductive SupplyEvent where
  | breakaway
  | recovered
  | autoParked
  deriving DecidableEq, Repr

def SupplyEvent.code : SupplyEvent → Byte
  | .breakaway => 1
  | .recovered => 2
  | .autoParked => 3

/-- R21, R198: the SUPPLY_EVENT record of an event as the state stands. -/
def supplyRecord (s : State) (k : SupplyEvent) : Record :=
  let supply := (s.asv.lastAir.map (·.supply)).getD 1023
  let reservoir := (s.asv.lastAir.map (·.reservoir)).getD 1023
  mkRecord .supplyEvent 1 k.code
    (be32 s.apu.seconds ++ be32 (((supply * 1024 + reservoir) * 2048 + s.wcu.refSpeed) * 2 + s.asv.link.bit) ++
      [BitVec.ofNat 8 s.asv.staleCount, BitVec.ofNat 8 s.asv.lostCount])

/-- R123: the TYRE_EVENT record of a telegram. -/
def tyreRecord (seconds : Nat) (b : Binding) (ident : BitVec 32) (pressure : Nat) (temperature : Int) (level : Level)
    (rapid : Bool) : Record :=
  mkRecord .tyreEvent 1 (BitVec.ofNat 8 b.code)
    (be32 seconds ++ be32 ident.toNat ++ be16 (((pressure * 8 + level.code) * 2 + bit rapid) * 2) ++
      [BitVec.ofNat 8 (temperature + 40).toNat])

def EpisodeEnd.code : EpisodeEnd → Nat
  | .ramped => 0
  | .sensorLost => 1
  | .standby => 2

/-- R103: the ROLL_EVENT record of an episode that ends after `duration` ms. -/
def rollRecord (ep : Episode) (duration : Nat) (how : EpisodeEnd) : Record :=
  mkRecord .rollEvent 2 0
    (be32 ep.entryTime ++ [if ep.cause = .lift then 1 else 0] ++ be16 ep.totalLoad ++ be16 ep.aLim ++ be16 ep.peak ++
      be16 ep.speed ++ be16 (min 65535 duration) ++ [BitVec.ofNat 8 (bit ep.shadow * 128 + how.code)])

/-! ## Slots of a record (11.6) -/

/-- The bytes of a list as a slot, 0 where the list is too short. -/
def slotOfList (l : List Byte) : SlotBytes := Vector.ofFn fun i => l.getD i.val 0

/-- The HEADER slot of a record with a state byte: WRITING 3, VALID 1, SUPERSEDED 0. -/
def headerSlot (r : Record) (state : Byte) : SlotBytes :=
  slotOfList (1 :: BitVec.ofNat 8 r.kind.code :: BitVec.ofNat 8 r.length :: state :: r.byte4 :: r.data.take 11)

/-- DATA slot `i` of a record, counted from 1. -/
def dataSlot (r : Record) (i : Nat) : SlotBytes := slotOfList (2 :: (r.data.drop (11 + 15 * (i - 1))).take 15)

def stateWriting : Byte := 3
def stateValid : Byte := 1
def stateSuperseded : Byte := 0

/-- R192: the length of the record recognised at slot `n`: a HEADER slot that names a known kind and a length of 1 to 9 and is
followed by length - 1 DATA slots before slot `bound`. -/
def recordAt (m : Memory) (bound n : Nat) : Option Nat :=
  let length := (m.read (16 * n + 2)).toNat
  if m.read (16 * n) = 1 ∧ (RecordKind.ofCode (m.read (16 * n + 1)).toNat).isSome ∧ 1 ≤ length ∧ length ≤ 9 ∧ n + length ≤ bound ∧
      ((List.range (length - 1)).all fun i => m.read (16 * (n + 1 + i)) == 2) = true then
    some length
  else none

/-- The kind of the record whose header is slot `n`. -/
def kindAt (m : Memory) (n : Nat) : Option RecordKind := RecordKind.ofCode (m.read (16 * n + 1)).toNat

/-- The state byte of the record whose header is slot `n`. -/
def stateAt (m : Memory) (n : Nat) : Byte := m.read (16 * n + 3)

/-- The data area of the record of `length` slots whose header is slot `n`. -/
def dataAt (m : Memory) (n length : Nat) : List Byte :=
  ((List.range 11).map fun i => m.read (16 * n + 5 + i)) ++
    (List.range (length - 1)).flatMap fun j => (List.range 15).map fun i => m.read (16 * (n + 1 + j) + 1 + i)

/-- R193: the search from slot `n` for the first VALID record of a kind before `bound`; recognised records are stepped over whole, other
slots one at a time. -/
def findRecord (m : Memory) (bound : Nat) (kind : RecordKind) : Nat → Nat → Option Nat
  | 0, _ => none
  | fuel + 1, n =>
    if n < bound then
      match recordAt m bound n with
      | some length =>
        if kindAt m n = some kind ∧ stateAt m n = stateValid then some n else findRecord m bound kind fuel (n + length)
      | none => findRecord m bound kind fuel (n + 1)
    else none

/-- R190 step 5: the last VALID TABLE record of a table that stands before slot `bound`. -/
def lastTable (m : Memory) (bound : Nat) (code : Byte) : Nat → Nat → Option Nat → Option Nat
  | 0, _, best => best
  | fuel + 1, n, best =>
    if n < bound then
      match recordAt m bound n with
      | some length =>
        lastTable m bound code fuel (n + length)
          (if kindAt m n = some .table ∧ stateAt m n = stateValid ∧ m.read (16 * n + 4) = code then some n else best)
      | none => lastTable m bound code fuel (n + 1) best
    else best

end Sys2Proof.Machine
end

