-- ==== Sys2Proof/Decode.lean ====
section
/-! DEFINITION. Decoding: no row of the table gives bits, so no table word spells a command; and the command that a frame on the tow link or
on the chassis bus is, by the layouts of chapter 11 and the rules of R160 and R197, with the frame that each such command arrives as. -/

namespace Sys2Proof

open Sys2Proof.Machine

/-- The command that a word spells by the table's bits: none, since no row of spec/opcode_table.json gives bits
(notes/assumptions/30.md). -/
def decodeTableWord (_nbits _w : Nat) : Option Instr := none

/-- Data byte `i` of a frame, byte 0 in the highest bits. -/
def RxFrame.byte (f : RxFrame) (i : Nat) : Byte := BitVec.ofNat 8 (f.data.toNat / 256 ^ (7 - i))

/-- Data bytes `i` and `i + 1`, the first most significant (chapter 11). -/
def RxFrame.word (f : RxFrame) (i : Nat) : BitVec 16 := BitVec.ofNat 16 ((f.byte i).toNat * 256 + (f.byte (i + 1)).toNat)

/-- 11.1: the position bits of a tow or rear link identifier. -/
def RxFrame.position (f : RxFrame) : BitVec 4 := BitVec.ofNat 4 (f.id.toNat / 8)

/-- 11.2: the fields of a REQUEST frame other than its code. -/
def RxFrame.request (f : RxFrame) : Request :=
  { target := f.position, tag := f.byte 0, flags := f.byte 2, args := BitVec.ofNat 40 f.data.toNat }

/-- 11.2: the fields of a TABLE_WRITE frame. -/
def RxFrame.tableWrite (f : RxFrame) : TableWriteFrame :=
  { target := f.position, tag := f.byte 0, table := BitVec.ofNat 3 ((f.byte 1).toNat / 32), entry := BitVec.ofNat 5 (f.byte 1).toNat,
    area := BitVec.ofNat 48 f.data.toNat }

/-- 11.2: the command of a request code. -/
def requestCommand (code : Byte) (r : Request) : Instr :=
  match code.toNat with
  | 1 => .identify r
  | 2 => .parkApply r
  | 3 => .parkRelease r
  | 4 => .readTable r
  | 5 => .discard r
  | 6 => .insert r
  | 7 => .learn r
  | 8 => .assign r
  | 9 => .remove r
  | 10 => .exchange r
  | 11 => .readRegistry r
  | 12 => .readTyre r
  | 13 => .readChannel r
  | 14 => .unmaskChannel r
  | 15 => .serviceActuate r
  | 16 => .nextAlert r
  | 17 => .ackAlert r
  | 18 => .readRecordFirst r
  | 19 => .readRecordNext r
  | 20 => .eraseStore r
  | 21 => .reset r
  | 22 => .clearCause r
  | 23 => .cancel r
  | _ => .requestUnknown code r

/-- R160, R197, 11.1, 11.2: the command that a frame on the tow link is. -/
def commandOfTowFrame (f : RxFrame) : Instr :=
  if f.malformed || f.forwardKind then .towFrameDiscarded f
  else if f.kind = 1 then
    .demand (f.word 0) (BitVec.ofNat 4 ((f.byte 2).toNat / 16)) (BitVec.ofNat 4 (f.byte 2).toNat) (f.word 3)
  else if f.kind = 2 then requestCommand (f.byte 1) f.request
  else .tableWrite f.tableWrite

/-- 11.1: the node bits of a chassis bus identifier. -/
def RxFrame.node (f : RxFrame) : BitVec 5 := BitVec.ofNat 5 f.id.toNat

/-- R197, 11.1, 11.4: the command that a frame on the chassis bus is; `none` for a frame that is discarded and counted nowhere: a kind
that is none of 11.1 or one the part sends, identifier bits 6 and 5 not 0, a length other than 8, a VALVE_REPLY of a node other than 31. -/
def commandOfChassisFrame (f : RxFrame) : Option Instr :=
  if f.id.toNat / 32 % 4 ≠ 0 ∨ f.len ≠ 8 then none
  else
    match f.kind with
    | 1 => some (.loadSample (f.byte 0) (f.word 1) (f.byte 3))
    | 2 => some (.airSample (f.word 0) (f.word 2) (f.word 4) (f.byte 6))
    | 3 => some (.lateralSample (f.word 0) (f.byte 2))
    | 4 =>
      some (.tyreTelegram (BitVec.ofNat 32 ((f.word 0).toNat * 65536 + (f.word 2).toNat)) (f.word 4) (f.byte 6) (f.byte 7))
    | 6 => some (.modReply f.node (f.word 0) (f.word 2) (f.byte 4))
    | 8 => if f.node = 31 then some (.valveReply f.node (f.byte 0)) else none
    | _ => none

/-! ## The frame a command arrives as -/

/-- A frame of eight data bytes as it arrives. -/
def CanFrame.arriving (f : CanFrame) : RxFrame := { id := f.id, len := 8, data := f.data }

/-- The request code of a command that is a request (11.2). -/
def Instr.requestForm : Instr → Option (Byte × Request)
  | .identify r => some (1, r)
  | .parkApply r => some (2, r)
  | .parkRelease r => some (3, r)
  | .readTable r => some (4, r)
  | .discard r => some (5, r)
  | .insert r => some (6, r)
  | .learn r => some (7, r)
  | .assign r => some (8, r)
  | .remove r => some (9, r)
  | .exchange r => some (10, r)
  | .readRegistry r => some (11, r)
  | .readTyre r => some (12, r)
  | .readChannel r => some (13, r)
  | .unmaskChannel r => some (14, r)
  | .serviceActuate r => some (15, r)
  | .nextAlert r => some (16, r)
  | .ackAlert r => some (17, r)
  | .readRecordFirst r => some (18, r)
  | .readRecordNext r => some (19, r)
  | .eraseStore r => some (20, r)
  | .reset r => some (21, r)
  | .clearCause r => some (22, r)
  | .cancel r => some (23, r)
  | .requestUnknown code r => some (code, r)
  | _ => none

/-- 11.1, 11.2: the frame on the tow link that a command arrives as; a TABLE_WRITE and a DEMAND have frames of their own kinds, and a
discarded frame is its own. -/
def Instr.towFrame : Instr → Option RxFrame
  | .demand pressure hop seq speed =>
    some
      { id := linkId 1 0, len := 8,
        data := packBytes
          (be16 pressure.toNat ++ [BitVec.ofNat 8 (hop.toNat * 16 + seq.toNat)] ++ be16 speed.toNat) }
  | .tableWrite w => some w.frame.arriving
  | .towFrameDiscarded f => some f
  | i => i.requestForm.map fun x => (Request.frame x.1 x.2).arriving

/-- 11.1, 11.4: the frame on the chassis bus that a command arrives as, the samples from node 0. -/
def Instr.chassisFrame : Instr → Option RxFrame
  | .loadSample axle bag status =>
    some { id := BitVec.ofNat 11 128, len := 8, data := packBytes ([axle] ++ be16 bag.toNat ++ [status]) }
  | .airSample supply reservoir control status =>
    some
      { id := BitVec.ofNat 11 256, len := 8,
        data := packBytes (be16 supply.toNat ++ be16 reservoir.toNat ++ be16 control.toNat ++ [status]) }
  | .lateralSample value status =>
    some { id := BitVec.ofNat 11 384, len := 8, data := packBytes (be16 value.toNat ++ [status]) }
  | .tyreTelegram ident pressure temperature flags =>
    some
      { id := BitVec.ofNat 11 512, len := 8,
        data := packBytes (be32 ident.toNat ++ be16 pressure.toNat ++ [temperature, flags]) }
  | .modReply node pressure speed fault =>
    some
      { id := BitVec.ofNat 11 (768 + node.toNat), len := 8,
        data := packBytes (be16 pressure.toNat ++ be16 speed.toNat ++ [fault]) }
  | .valveReply node position =>
    if node = 31 then some { id := BitVec.ofNat 11 (1024 + node.toNat), len := 8, data := packBytes [position] } else none
  | _ => none

end Sys2Proof
end

