-- ==== Sys2Proof/Machine/Calc.lean ====
section
/-! DEFINITION. The part's arithmetic (5.4): interpolation, load filter and ratio, axle target, final pressure, rollover thresholds, tyre
thresholds and levels. Every division rounds toward minus infinity but the filter's, which rounds toward zero (R27). -/

namespace Sys2Proof.Machine

/-! ## Interpolation (5.4) -/

/-- 5.4: the value at x between breakpoints (x0, v0) and (x1, v1); `/` on Int with the positive divisor x1 - x0 is the floor. -/
def interpolate (x0 v0 x1 v1 x : Int) : Int := v0 + (x - x0) * (v1 - v0) / (x1 - x0)

/-- R26, R80: the segment whose lower breakpoint is at or below x and whose upper breakpoint is above it, the first such, the
model's choice (DESIGN CHOICE, notes/assumptions/24.md); at the last breakpoint its value. -/
def segment : List (Nat × Nat) → Nat → Nat
  | p :: q :: rest, x =>
    if p.1 ≤ x ∧ x < q.1 then (interpolate p.1 p.2 q.1 q.2 x).toNat else segment (q :: rest) x
  | [p], _ => p.2
  | [], _ => 0

/-- R26, R80: the value of a table of breakpoints at x: the end values outside the breakpoints, interpolated between them; `none` for a
table without breakpoints. Where x meets two lines of the rules' tables, as it can only in a restored table that no validation has passed
(its first breakpoint above its last, say), the first line wins, then the second, then the segment: the model's choice
(DESIGN CHOICE, notes/assumptions/50.md). -/
def curve (points : List (Nat × Nat)) (x : Nat) : Option Nat :=
  match points.head?, points.getLast? with
  | some first, some last => some (if x ≤ first.1 then first.2 else if last.1 ≤ x then last.2 else segment points x)
  | _, _ => none

/-- The counted LOAD breakpoints of an axle (7.2.2). R26 speaks of 2 to 8: of a restored table that counts more the first 8 are taken, and a
single one holds at every bag pressure, the model's choice (notes/assumptions/38.md). -/
def loadPoints (t : LoadTable) (axle : Fin 4) : List (Nat × Nat) :=
  (List.range (min 8 t.counts[axle])).filterMap fun j => (t.points[8 * axle.val + j]?).map fun p => (p.bag, p.load)

/-- R26: L_raw of an axle from its bag pressure (a table without breakpoints: notes/assumptions/4.md). -/
def rawLoad (t : LoadTable) (axle : Fin 4) (bag : Nat) : Nat :=
  (curve (loadPoints t axle) bag).getD (min 3000 (Config.freeRawLoad axle.val bag))

/-! ## Load filter, ratio and target -/

/-- R27: the new L_f of an unheld good sample with the take-whole mark clear; `Int.tdiv` rounds toward zero. -/
def filterLoad (lF lRaw : Nat) : Nat :=
  let d : Int := (lRaw : Int) - (lF : Int)
  if d.natAbs < 4 then lRaw else ((lF : Int) + d.tdiv 4).toNat

/-- R36: the load ratio formed from L_f (a rated load of 0: notes/assumptions/4.md). -/
def measuredRatio (a : AxleEntry) (lF : Nat) : Nat :=
  min 1000 (max a.rMin (if a.lRated = 0 then Config.freeRatio lF else lF * 1000 / a.lRated))

/-- R36: the load ratio of a present axle. -/
def loadRatio (a : AxleEntry) (r : LoadRecord) : Nat :=
  match r.status, r.lF with
  | .live, some l => measuredRatio a l
  | .stale, some l => measuredRatio a l
  | _, _ => a.fallback

/-- R38: the target of a present axle for a defined demand. -/
def axleTarget (dEff r p0 : Nat) : Nat := if dEff ≤ p0 then dEff else p0 + (dEff - p0) * r / 1000

/-- R42: an axle's contribution to the total load. -/
def loadContribution (a : AxleEntry) (r : LoadRecord) : Nat :=
  if a.present then
    match r.status, r.lF with
    | .unknown, _ => a.lRated
    | _, some l => l
    | _, none => a.lRated
  else 0

/-- R42: the total load. -/
def totalLoadOf (t : Vector AxleEntry 4) (axles : Vector LoadRecord 4) : Nat :=
  ((List.finRange 4).map fun a => loadContribution t[a] axles[a]).sum

/-- R53: the final pressure of a wheel end. -/
def finalPressure (w i s cap : Nat) : Nat := min (max (max w i) s) cap

/-! ## Demand (1.5) -/

/-- R12: the source of D_eff. -/
def demandSource (a : Asv) : Option Nat :=
  match a.link with
  | .linked => a.lastDemand
  | .unlinked => a.lastAir.map (·.control)

/-- R13: D_eff from the source and the supply state. -/
def effectiveDemand (supply : SupplyState) (source : Option Nat) (emergencyDemand : Nat) : Option Nat :=
  match supply with
  | .parked => some 0
  | .emergency => some (max (source.getD 0) emergencyDemand)
  | _ => source

/-! ## Rollover thresholds (4.3) -/

/-- The counted ROLL breakpoints (7.2.4). R80 speaks of 2 to 6: of a restored table that counts more the first 6 are taken, and a single one
holds at every total load, the model's choice (notes/assumptions/38.md). -/
def rollPoints (t : RollTable) : List (Nat × Nat) := (t.points.toList.take t.count).map fun p => (p.load, p.threshold)

/-- R80: a_tab at a total load (a table without breakpoints: notes/assumptions/4.md). -/
def tabledThreshold (t : RollTable) (load : Nat) : Nat :=
  (curve (rollPoints t) load).getD (min 1500 (Config.freeThreshold load))

/-- R81: a_lim. -/
def tippingLimit (t : RollTable) (aTab k : Nat) : Nat := max t.aFloor (aTab * (1000 - k * t.step) / 1000)

/-- 5.4: a ratio in per mille applied to a quantity. -/
def permille (x ratio : Nat) : Nat := x * ratio / 1000

/-! ## Tyres (5.3, 5.4) -/

/-- The telegram count and flags of byte 7 of a TYRE_TELEGRAM, with its clamped measurements (R108, 11.4). -/
structure Telegram where
  ident : BitVec 32
  pressure : Nat
  temperature : Int
  count : BitVec 4
  learnTrigger : Bool
  batteryLow : Bool
  rapidLoss : Bool
  deriving DecidableEq, Repr

/-- R108, R197: a telegram decoded and clamped; a temperature byte above 190 is +150. -/
def Telegram.of (ident : BitVec 32) (pressure : BitVec 16) (temperature flags : Byte) : Telegram :=
  { ident := ident, pressure := clampTo 1400 pressure, temperature := (min 190 temperature.toNat : Nat) - 40,
    count := BitVec.ofNat 4 (flags.toNat / 16), learnTrigger := flags.toNat / 4 % 2 = 1, batteryLow := flags.toNat / 2 % 2 = 1,
    rapidLoss := flags.toNat % 2 = 1 }

/-- R113: the adjusted reference pressure. -/
def adjusted (pRef : Nat) (t : Int) : Int := ((pRef : Int) + 100) * (t + 273) / 293 - 100

/-- R113: a threshold of adj. -/
def tyreThreshold (adj : Int) (ratio : Nat) : Int := adj * ratio / 1000

/-- R114: the candidate level. -/
def candidateLevel (t : TyreTable) (adj : Int) (p : Nat) (rapid : Bool) : Level :=
  let p : Int := p
  if p < tyreThreshold adj t.deflate ∨ p < 100 ∨ (rapid = true ∧ p < tyreThreshold adj t.warn) then .deflated
  else if p < tyreThreshold adj t.alarm then .lowAlarm
  else if p < tyreThreshold adj t.warn then .lowWarn
  else if tyreThreshold adj t.high < p then .high
  else .normal

/-- R114: the severity of a low level; 0 for the others. -/
def Level.severity : Level → Nat
  | .lowWarn => 1
  | .lowAlarm => 2
  | .deflated => 3
  | _ => 0

/-- R115: the exit limit of a low level. -/
def exitLimit (t : TyreTable) (adj : Int) (before : Level) : Int :=
  let threshold := if before = .lowWarn then tyreThreshold adj t.warn else tyreThreshold adj t.alarm
  threshold * (1000 + t.hysteresis) / 1000

/-- R115, R116: the new level of an accepted telegram. -/
def newLevel (t : TyreTable) (adj : Int) (p : Nat) (rapid : Bool) (before : Level) : Level :=
  let c := candidateLevel t adj p rapid
  if before.severity = 0 then c
  else if before.severity ≤ c.severity then c
  else if exitLimit t adj before ≤ (p : Int) then c
  else before

/-- R117: the hot flag after an accepted telegram. -/
def newHot (limit : Nat) (t : Int) (before : Bool) : Bool :=
  if (limit : Int) ≤ t then true else if t ≤ (limit : Int) - 5 then false else before

end Sys2Proof.Machine
end

