-- ==== Sys2Proof/Machine/Flags.lean ====
section
/-! DEFINITION. Every flag, condition and count that is a function of the rest of the state: standstill, output suspension, brake
activity, load hold, validity of bindings, deflation and the condition alerts of 9.1. -/

namespace Sys2Proof.Machine

/-- Restore is running (10.4). -/
def State.restoring (s : State) : Bool := s.rst.restore.isSome

/-- 5.3: the vehicle is stationary while its reference speed is 20 or less. -/
def State.stationary (s : State) : Bool := s.wcu.refSpeed ≤ 20

/-- 3.6: channel output is suspended during restore, in STANDBY and SLEEP, and while D_eff is undefined. -/
def State.outputSuspended (s : State) : Bool := s.restoring || s.apu.power != .run || s.asv.dEff.isNone

/-- Pulse train B is in PULSE or GAP, or pulse train A is. -/
def PulseTrain.isRunning (t : PulseTrain) : Bool := t.phase != .off

/-- R44: the brake activity flag. -/
def State.brakeActivity (s : State) : Bool :=
  s.asv.dEff != some 0 || s.rou.state = .probe || s.rou.state = .intervene || s.rou.state = .holdoff || s.wcu.trainB.isRunning ||
    s.asv.supply = .emergency

/-- R29: the rollover unit holds the load. -/
def Stability.holdsLoad : Stability → Bool
  | .watch => true
  | .probe => true
  | .intervene => true
  | .holdoff => true
  | .quiet => false
  | .off _ => false

/-- QUIET or OFF, the states a service actuation needs (R72, R74). -/
def Stability.idle : Stability → Bool
  | .quiet => true
  | .off _ => true
  | _ => false

/-! ## Wheel ends and channels -/

/-- R54: whether a channel of the CHANNEL table serves a wheel end; a channel that is not present has none. -/
def ChannelEntry.serves (c : ChannelEntry) (w : Fin 8) : Bool :=
  c.present && c.side = wheelSide w && c.axles[wheelAxle w]

/-- The CHANNEL entry in force of a channel. -/
def State.channelEntry (s : State) (c : Fin 6) : ChannelEntry := s.tbu.active.channel.entries[c]

/-- R86, 3.4: a channel that is present and unmasked. -/
def State.channelUsable (s : State) (c : Fin 6) : Bool := (s.channelEntry c).present && s.wcu.channels[c].mask.isNone

/-- R66: a channel contributes to the reference speed. -/
def State.contributes (s : State) (c : Fin 6) : Bool :=
  s.channelUsable c && s.wcu.channels[c].lastReply.isSome &&
    (List.finRange 8).all fun w => !((s.channelEntry c).serves w && s.rou.lifted[w])

/-- The contributing wheel speeds. -/
def State.speeds (s : State) : List Nat :=
  (List.finRange 6).filterMap fun c => if s.contributes c then s.wcu.channels[c].lastReply.map (·.speed) else none

/-- R66: the reference speed. The towing-vehicle speed is present whenever the link state is LINKED. -/
def State.referenceSpeed (s : State) : Nat :=
  if s.speeds.isEmpty then (if s.asv.link = .linked then s.asv.towSpeed.getD 0 else 0) else s.speeds.sum / s.speeds.length

/-- R71: a train's contribution to a wheel end. -/
def State.trainContribution (s : State) (t : PulseTrain) (w : Fin 8) : Nat :=
  if t.phase = .pulse && (List.finRange 6).any (fun c => t.targets[c] && s.channelUsable c && (s.channelEntry c).serves w) then
    t.pressure
  else 0

/-- R53, R71, R91, R101: the rollover contribution to a wheel end: train A's during its pulse, otherwise the intervention pressure
unless shadow mode is set. -/
def State.rolloverContribution (s : State) (w : Fin 8) : Nat :=
  if s.wcu.trainA.phase = .pulse then s.trainContribution s.wcu.trainA w
  else if s.tbu.active.roll.shadow then 0 else s.rou.pressures[w]

/-- R53: I'(w), 0 in PARKED. -/
def State.effectiveRollover (s : State) (w : Fin 8) : Nat := if s.asv.supply = .parked then 0 else s.wcu.wheels[w].i

/-- The lesser of two pressures, undefined when one of them is. -/
def minDefined : Option Nat → Option Nat → Option Nat
  | some a, some b => some (min a b)
  | _, _ => none

/-- R54: the computed command of a channel: the least F over its wheel ends, undefined when one of them is. -/
def State.computedCommand (s : State) (c : Fin 6) : Option Nat :=
  match ((List.finRange 8).filter fun w => (s.channelEntry c).serves w).map fun w => s.wcu.wheels[w].f with
  | [] => none
  | f :: fs => fs.foldl minDefined f

/-- R55: the deadband test and the release test. -/
def raiseTest (deadband lastSent : Nat) (command : Option Nat) : Bool :=
  match command with
  | none => false
  | some p => (p != lastSent && (deadband ≤ p - lastSent + (lastSent - p))) || (p = 0 && lastSent != 0)

/-! ## Tyres (5.1, 5.6) -/

/-- 5.1, R130: whether the AXLE table allows a binding. -/
def bindingValid (t : Vector AxleEntry 4) : Binding → Bool
  | .tyre a _ .outer => t[a].present
  | .tyre a _ .inner => t[a].present && t[a].twin
  | .spare _ => (List.finRange 4).any fun a => t[a].present

/-- A bound entry is evaluated while its binding is valid (5.1). -/
def State.evaluated (s : State) (b : Bound) : Bool := bindingValid s.tbu.active.axle b.binding

/-- The bound entries. -/
def State.boundEntries (s : State) : List Bound := s.twu.entries.toList.filterMap id

/-- The evaluated entries. -/
def State.evaluatedEntries (s : State) : List Bound := s.boundEntries.filter fun b => s.evaluated b

/-- Whether a binding is a tyre position. -/
def Binding.isTyre : Binding → Bool
  | .tyre _ _ _ => true
  | .spare _ => false

/-- The wheel end of a tyre position. -/
def Binding.onWheel (b : Binding) (w : Fin 8) : Bool :=
  match b with
  | .tyre a s _ => a = wheelAxle w && s = wheelSide w
  | .spare _ => false

/-- R121: a tyre position that counts as deflated. -/
def State.countsDeflated (s : State) (b : Bound) : Bool :=
  s.evaluated b && b.binding.isTyre && (b.reading.level = .deflated || b.reading.deflMissing)

/-- R121: the deflated count. -/
def State.deflatedCount (s : State) : Nat := (s.boundEntries.filter fun b => s.countsDeflated b).length

/-- R52: the tyre cap of a wheel end. -/
def State.tyreCap (s : State) (w : Fin 8) : Nat :=
  if s.boundEntries.any fun b => s.countsDeflated b && b.binding.onWheel w then s.tbu.active.tyre.axles[wheelAxle w].derate else 1000

/-- Some evaluated tyre position has a property. -/
def State.anyTyre (s : State) (p : Reading → Bool) : Bool := s.evaluatedEntries.any fun b => b.binding.isTyre && p b.reading

/-- Some evaluated spare slot has a property. -/
def State.anySpare (s : State) (p : Reading → Bool) : Bool := s.evaluatedEntries.any fun b => !b.binding.isTyre && p b.reading

/-! ## Conditions (9.1) -/

/-- Some present axle has a property of its table entry and its load record. -/
def State.anyAxle (s : State) (p : AxleEntry → LoadRecord → Bool) : Bool :=
  (List.finRange 4).any fun a => s.tbu.active.axle[a].present && p s.tbu.active.axle[a] s.lap.axles[a]

/-- R35. -/
def State.loadSensorStale (s : State) : Bool :=
  s.anyAxle fun _ r => r.status = .stale || r.status = .fallback || (r.status = .unknown && r.silent)

/-- R37. -/
def State.overload (s : State) : Bool :=
  s.anyAxle fun a r => match r.lF with | some l => decide (a.lRated * 1100 / 1000 < l) | none => false

/-- R63. -/
def State.anyMasked (s : State) (cause : MaskCause) : Bool :=
  (List.finRange 6).any fun c => (s.channelEntry c).present && s.wcu.channels[c].mask = some cause

/-- R189: fewer than 16 slots remain; formed once restore has ended (R196). -/
def State.storeFull (s : State) : Bool := !s.restoring && slotCount - s.rst.writePos < 16

/-- The condition alerts of 9.1 in the order of their ranks, each with whether it holds. -/
def State.conditions (s : State) : List (AlertKind × Bool) :=
  [(.breakaway, s.asv.breakaway),
   (.linkLost, s.asv.linkLost),
   (.channelLost, s.anyMasked .lost),
   (.channelFault, s.anyMasked .fault),
   (.tyreDeflated, s.boundEntries.any fun b => s.countsDeflated b),
   (.lowReservoir, s.asv.fallen),
   (.rollSensorLost, s.rou.sensorLost),
   (.airSensorLost, s.asv.airLost),
   (.loadSensorStale, s.loadSensorStale),
   (.tyreLowAlarm, s.anyTyre fun r => r.level = .lowAlarm),
   (.tyreHot, s.anyTyre fun r => r.hot),
   (.overload, s.overload),
   (.tyreLowWarn, s.anyTyre (fun r => r.level = .lowWarn) || s.anySpare fun r => r.level.severity != 0),
   (.tyreHigh, s.evaluatedEntries.any fun b => b.reading.level = .high),
   (.tyreMissing, s.evaluatedEntries.any fun b => b.reading.level = .missing),
   (.sensorBattery, s.evaluatedEntries.any fun b => b.reading.battery),
   (.storeFull, s.storeFull),
   (.combinationTooLong, s.lru.tooLong)]

/-- R174: every owner hands its conditions as they now hold; an unchanged condition changes nothing. -/
def Ev.handConditions (e : Ev) : Ev := e.conditions.foldl (fun acc c => acc.handCondition c.1 c.2) e

/-- R190, R174: what is waiting for the store begins to be written, and the conditions are handed on. -/
def Ev.record (e : Ev) : Ev := e.beginWrite.handConditions

end Sys2Proof.Machine
end

