-- ==== Sys2Proof/Machine/AirOps.lean ====
section
/-! DEFINITION. The shared operations of the air supply supervisor (chapter 1): forming D_eff, valve operations, the supply state tests,
the held release, the auto-park timer, and its rules for STANDBY and RUN. -/

namespace Sys2Proof.Machine

/-- The SUPPLY table in force. -/
def State.supplyTable (s : State) : SupplyTable := s.tbu.active.supply

/-- R12, R13: D_eff is re-formed from its source and the supply state. -/
def Ev.formDemand (e : Ev) : Ev :=
  e.setAsv { e.asv with dEff := effectiveDemand e.asv.supply (demandSource e.asv) e.supplyTable.emergencyDemand }

/-! ## Valve operations (1.6) -/

/-- R14: a valve operation is started and its command raised to the chassis bus transmitter, in place of one not yet sent. -/
def Ev.startValve (e : Ev) (kind : ValveKind) (requester : Option Tag) (auto : Bool) : Ev :=
  let op : ValveOp :=
    { kind := kind, requester := requester, phase := .pending, auto := auto, valveTimer := none, polls := [] }
  (e.setAsv { e.asv with valveOp := some op }).setWcu { e.wcu with pendingValve := some kind }

/-- R10: entry into EMERGENCY. D_eff is re-formed and the auto-park timer follows at the end of the event. -/
def Ev.enterEmergency (e : Ev) : Ev :=
  (e.setAsv { e.asv with supply := .emergency, breakaway := true, fallen := false }).queueEvent (supplyRecord e.toState .breakaway)

/-- R8: the entry test after RELEASED, on the last air sample. -/
def Ev.entryTest (e : Ev) : Ev :=
  match e.asv.lastAir with
  | some x =>
    if x.supply < e.supplyTable.emergency then e.enterEmergency
    else if e.supplyTable.ready ≤ x.reservoir then e.setAsv { e.asv with supply := .ready, breakaway := false }
    else e.setAsv { e.asv with supply := .charging, breakaway := false, fallen := false }
  | none => e.setAsv { e.asv with supply := .charging, breakaway := false, fallen := false }

/-- R8, R15, R16, R17: a valve operation completes with APPLIED or RELEASED. -/
def Ev.completeValve (e : Ev) (op : ValveOp) (applied : Bool) : Ev :=
  let e1 := (e.setAsv { e.asv with valveOp := none }).complete op.requester .done
  if applied then
    let e2 := (e1.setAsv { e1.asv with supply := .parked, fallen := false, autoParkTimer := none }).formDemand
    if op.auto then e2.queueEvent (supplyRecord e2.toState .autoParked) else e2
  else e1.entryTest.formDemand

/-- R16: a valve operation fails; in UNDETERMINED the QUERY of R7 is started again. -/
def Ev.failValve (e : Ev) (op : ValveOp) : Ev :=
  let e1 := ((e.setAsv { e.asv with valveOp := none }).occur .parkFault).complete op.requester .failed
  if e1.asv.supply = .undetermined then e1.startValve .query none false else e1

/-- An APPLY operation is in progress (R17, R18). -/
def State.applying (s : State) : Bool :=
  match s.asv.valveOp with
  | some op => op.kind = .apply
  | none => false

/-! ## Supply state tests (1.4) -/

/-- R9, R10, R11: a good air sample is tested against the supply state. -/
def Ev.testSupply (e : Ev) (x : AirSample) : Ev :=
  match e.asv.supply with
  | .undetermined => e
  | .parked => e
  | .charging =>
    if x.supply < e.supplyTable.emergency then e.enterEmergency
    else if e.supplyTable.ready ≤ x.reservoir then e.setAsv { e.asv with supply := .ready, fallen := false }
    else e
  | .ready =>
    if x.supply < e.supplyTable.emergency then e.enterEmergency
    else if x.reservoir < e.supplyTable.ready then e.setAsv { e.asv with supply := .charging, fallen := true }
    else e
  | .emergency =>
    if e.supplyTable.recovery ≤ x.supply then
      (e.setAsv { e.asv with
        supply := if e.supplyTable.ready ≤ x.reservoir then .ready else .charging, breakaway := false, fallen := false,
        autoParkTimer := none }).queueEvent (supplyRecord e.toState .recovered)
    else e

/-- R19: the release conditions, unmet while the last air sample is absent (R2). -/
def State.releaseConditions (s : State) : Bool :=
  match s.asv.lastAir with
  | some x => decide (s.supplyTable.release ≤ x.reservoir) && decide (s.supplyTable.recovery ≤ x.supply)
  | none => false

/-- R20, R169: a held release whose conditions are met in PARKED starts its RELEASE operation and leaves its slot. -/
def Ev.testHeldRelease (e : Ev) : Ev :=
  match e.asv.heldRelease with
  | some h =>
    if e.asv.supply = .parked && e.releaseConditions then
      ((e.setAsv { e.asv with heldRelease := none }).setLru { e.lru with slotRelease := none }).startValve .release (some h.tag) false
    else e
  | none => e

/-- R20, R169: a held release, if any, ends with a completion and its slot is emptied. -/
def Ev.endHeldRelease (e : Ev) (r : Result) : Ev :=
  match e.asv.heldRelease with
  | some h => ((e.setAsv { e.asv with heldRelease := none }).setLru { e.lru with slotRelease := none }).result h.tag r
  | none => e

/-! ## Auto-park (1.7) -/

/-- R17: the auto-park timer runs exactly while the part in RUN is in EMERGENCY and stationary with no APPLY in progress; it is
started when this comes to hold and stopped when it ceases (notes/assumptions/23.md). -/
def Ev.followAutoPark (e : Ev) : Ev :=
  if e.asv.supply = .emergency && e.stationary && !e.applying && e.apu.power = .run then
    match e.asv.autoParkTimer with
    | some _ => e
    | none => e.setAsv { e.asv with autoParkTimer := e.timer (e.supplyTable.autoParkDelay * 1000) }
  else e.setAsv { e.asv with autoParkTimer := none }

/-! ## Demand frames (1.3) -/

/-- R3: whether a demand of sequence q is stale. -/
def Asv.isStale (a : Asv) (q : BitVec 4) : Bool := a.lastSeq = some q

/-- R3: the sequence numbers skipped before a good frame of sequence q. -/
def Asv.skipped (a : Asv) (q : BitVec 4) : Nat :=
  match a.lastSeq with
  | none => 0
  | some s => (q - s - 1).toNat

/-- R3, R4: a DEMAND frame is classified and taken by the supervisor. -/
def Ev.takeDemand (e : Ev) (pressure : BitVec 16) (seq : BitVec 4) (speed : BitVec 16) : Ev :=
  if e.asv.isStale seq then e.setAsv { e.asv with staleCount := satAdd 255 e.asv.staleCount 1 }
  else
    let run := min 3 (e.asv.goodRun + 1)
    let relink := e.asv.link = .unlinked && run = 3
    (e.setAsv { e.asv with
      lostCount := satAdd 255 e.asv.lostCount (e.asv.skipped seq), lastSeq := some seq,
      lastDemand := some (clampTo 1000 pressure), towSpeed := some (clampTo 1500 speed),
      linkTimer := e.timer e.supplyTable.linkTimeout, goodRun := run,
      link := if relink then .linked else e.asv.link, linkLost := if relink then false else e.asv.linkLost }).formDemand

/-! ## Power states (1.10) -/

/-- R22: entry into STANDBY. With no valve operation in progress R22 withdraws nothing: a poll that has outlived its operation stays pending, and
the QUERY of the return replaces it, the model's choice (notes/assumptions/14.md). -/
def Ev.airStandby (e : Ev) : Ev :=
  let e1 :=
    match e.asv.valveOp with
    | some op =>
      ((e.setAsv { e.asv with valveOp := none }).setWcu { e.wcu with pendingValve := none }).complete op.requester .cancelled
    | none => e
  let e2 := e1.endHeldRelease .cancelled
  e2.setAsv { e2.asv with airTimer := none, linkTimer := none, autoParkTimer := none }

/-- R23: return to RUN. -/
def Ev.airReturn (e : Ev) : Ev :=
  ((e.setAsv { e.asv with
    supply := .undetermined, fallen := false, link := .unlinked, goodRun := 0, lastSeq := none, lastDemand := none,
    towSpeed := none, linkLost := false, lastAir := none, airLost := false, airTimer := e.timer airSampleMs }).startValve
      .query none false).formDemand

/-- R2, R7, R24: the end of restore. -/
def Ev.airRestored (e : Ev) : Ev := (e.setAsv { e.asv with airTimer := e.timer airSampleMs }).startValve .query none false

end Sys2Proof.Machine
end

