-- ==== Sys2Proof/Machine/LoadOps.lean ====
section
/-! DEFINITION. The shared operations of the load apportioner (chapter 2): a good load sample, ratios, targets and apportioned pressures,
and its rules for an insertion, for STANDBY and RUN and for the end of restore. -/

namespace Sys2Proof.Machine

/-- One axle's load record changed. -/
def Ev.setAxle (e : Ev) (a : Fin 4) (f : LoadRecord → LoadRecord) : Ev :=
  e.setLap { e.lap with axles := modifyAt e.lap.axles a f }

/-- Every axle's load record changed. -/
def Ev.setAxles (e : Ev) (f : Fin 4 → LoadRecord → LoadRecord) : Ev :=
  e.setLap { e.lap with axles := Vector.ofFn fun a => f a e.lap.axles[a] }

/-! ## Samples (2.2 to 2.6) -/

/-- R34, R28: the take-whole mark as the sample finds it: a STALE or FALLBACK axle sets it. -/
def LoadRecord.wholeMark (r : LoadRecord) : Bool := r.takeWhole || r.status = .stale || r.status = .fallback

/-- R27, R28: the filtered load after an unheld good sample. -/
def LoadRecord.unheldLoad (r : LoadRecord) (lRaw : Nat) : Nat :=
  if r.wholeMark then lRaw
  else
    match r.lF with
    | some l => filterLoad l lRaw
    | none => lRaw

/-- R31, R34: the load status after a good sample; an UNKNOWN axle whose sample is held stays UNKNOWN. -/
def LoadRecord.sampledStatus (r : LoadRecord) (held : Bool) : LoadStatus := if held && r.status = .unknown then .unknown else .live

/-- R25 to R34: an axle's record after a good sample with raw load `lRaw`. -/
def LoadRecord.sample (r : LoadRecord) (bag lRaw : Nat) (held : Bool) (stale : Timer) : LoadRecord :=
  { r with
    bag := some bag, lRaw := some lRaw, lF := if held then r.lF else some (r.unheldLoad lRaw),
    status := r.sampledStatus held, takeWhole := held && r.wholeMark, silent := false, staleTimer := stale, fallbackTimer := none }

/-- R25: a good load sample is taken. -/
def Ev.takeSample (e : Ev) (a : Fin 4) (bag : Nat) : Ev :=
  e.setAxle a fun r => r.sample bag (rawLoad e.tbu.active.load a bag) e.lap.held (e.timer staleMs)

/-! ## Ratios, targets and apportioned pressures (2.7 to 2.9) -/

/-- R36, R38, R39: an axle's ratio and target are re-formed. An axle that is not present keeps the ratio it had (notes/assumptions/37.md). -/
def LoadRecord.apportion (r : LoadRecord) (t : AxleEntry) (dEff : Option Nat) : LoadRecord :=
  let ratio := if t.present then loadRatio t r else r.ratio
  { r with ratio := ratio, target := if t.present then dEff.map fun d => axleTarget d ratio t.p0 else some 0 }

/-- R36, R40: every ratio and target is re-formed. -/
def Ev.formTargets (e : Ev) : Ev := e.setAxles fun a r => r.apportion e.tbu.active.axle[a] e.asv.dEff

/-- R41: the apportioned pressure of every wheel end is re-formed; it is held in the wheel-end record (notes/assumptions/27.md). -/
def Ev.formApportioned (e : Ev) : Ev :=
  e.setWcu { e.wcu with wheels := Vector.ofFn fun w =>
    { e.wcu.wheels[w] with w := e.lap.axles[wheelAxle w].target.map fun t => min t e.wcu.wheels[w].cap } }

/-! ## Brake activity and load hold (2.5, 2.11) -/

/-- R44, R29: the brake activity flag and the load hold are re-formed. -/
def Ev.setActivity (e : Ev) : Ev :=
  e.setLap { e.lap with brakeActive := e.brakeActivity, held := e.brakeActivity || e.rou.state.holdsLoad }

/-! ## Insertion (2.12) -/

/-- R47, R31: the record of an axle that an insertion makes present, with its stale timer. -/
def LoadRecord.appear (r : LoadRecord) (stale : Timer) : LoadRecord := { ratio := r.ratio, target := r.target, staleTimer := stale }

/-- R47: the record of an axle that an insertion makes absent. -/
def LoadRecord.vanish (r : LoadRecord) : LoadRecord := { ratio := r.ratio, target := r.target, takeWhole := false }

/-- R48: whether an axle's LOAD entries are the same in two tables. -/
def sameLoadEntries (t u : LoadTable) (a : Fin 4) : Bool :=
  t.counts[a] = u.counts[a] && (List.range 8).all fun j => t.points[8 * a.val + j]? == u.points[8 * a.val + j]?

/-- R48: L_raw is interpolated again and the take-whole mark set. -/
def LoadRecord.recalibrate (r : LoadRecord) (t : LoadTable) (a : Fin 4) : LoadRecord :=
  { r with lRaw := r.bag.map (rawLoad t a), takeWhole := true }

/-- R47, R48, R49: the load records at an insertion that replaces the tables `old`. The stale timer of an axle that it makes present starts in RUN;
outside RUN it stays stopped until the return to RUN starts it (R49, R50; notes/assumptions/22.md). -/
def Ev.insertAxles (e : Ev) (old : Tables) : Ev :=
  e.setAxles fun a r =>
    match old.axle[a].present, e.tbu.active.axle[a].present with
    | false, true => r.appear (if e.apu.power = .run then e.timer staleMs else none)
    | true, false => r.vanish
    | true, true => if sameLoadEntries old.load e.tbu.active.load a then r else r.recalibrate e.tbu.active.load a
    | false, false => r

/-! ## Power states and restore (2.13) -/

/-- R49: entry into STANDBY. -/
def Ev.lapStandby (e : Ev) : Ev := e.setAxles fun _ r => { r with staleTimer := none, fallbackTimer := none }

/-- R50: the timers of a present axle on the return to RUN. -/
def LoadRecord.restart (r : LoadRecord) (stale fallback : Timer) : LoadRecord :=
  match r.status with
  | .unknown => { r with takeWhole := true, staleTimer := stale }
  | .live => { r with takeWhole := true, staleTimer := stale }
  | .stale => { r with takeWhole := true, fallbackTimer := fallback }
  | .fallback => { r with takeWhole := true }

/-- R50: return to RUN. -/
def Ev.lapReturn (e : Ev) : Ev :=
  e.setAxles fun a r => if e.tbu.active.axle[a].present then r.restart (e.timer staleMs) (e.timer fallbackMs) else r

/-- R51: the end of restore. -/
def Ev.lapRestored (e : Ev) : Ev :=
  e.setAxles fun a r => if e.tbu.active.axle[a].present then { r with staleTimer := e.timer staleMs } else r

end Sys2Proof.Machine
end

