-- ==== Sys2Proof/Machine/WheelOps.lean ====
section
/-! DEFINITION. The shared operations of the wheel-end channel unit (chapter 3): pulse trains, masks, reference speed, output suspension,
final pressures and commands, the chassis bus transmitter, and the service actuation. -/

namespace Sys2Proof.Machine

/-- One channel's record changed. -/
def Ev.setChannel (e : Ev) (c : Fin 6) (f : Channel → Channel) : Ev :=
  e.setWcu { e.wcu with channels := modifyAt e.wcu.channels c f }

/-- Every channel's record changed. -/
def Ev.setChannels (e : Ev) (f : Fin 6 → Channel → Channel) : Ev :=
  e.setWcu { e.wcu with channels := Vector.ofFn fun c => f c e.wcu.channels[c] }

/-! ## Pulse trains (3.7) -/

/-- The train of a name. -/
def Wcu.train (x : Wcu) : Train → PulseTrain
  | .a => x.trainA
  | .b => x.trainB

/-- One train replaced. -/
def Wcu.withTrain (x : Wcu) (n : Train) (t : PulseTrain) : Wcu :=
  match n with
  | .a => { x with trainA := t }
  | .b => { x with trainB := t }

/-- R69: a train armed by its owner. -/
def Ev.armTrain (e : Ev) (n : Train) : Ev := e.setWcu (e.wcu.withTrain n { e.wcu.train n with armed := true })

/-- R69: a train started by its owner; one that is not armed does not start. -/
def Ev.startTrain (e : Ev) (n : Train) (targets : Vector Bool 6) (pressure count pulse : Nat) (rep : Bool) : Ev :=
  if (e.wcu.train n).armed then
    e.setWcu (e.wcu.withTrain n
      { targets := targets, pressure := pressure, pulse := pulse, base := count, count := count, phase := .pulse, armed := true,
        rep := rep, terminal := false, timer := e.timer pulse })
  else e

/-- R71: a train stopped by its owner: the armed flag and the terminal-count flag are left as they were. -/
def Ev.stopTrain (e : Ev) (n : Train) : Ev :=
  e.setWcu (e.wcu.withTrain n { e.wcu.train n with phase := .off, timer := none })

/-- R70: the train after its phase timer expires, and whether a series reached its terminal count. -/
def PulseTrain.expire (t : PulseTrain) (timer : Timer) : PulseTrain × Bool :=
  match t.phase with
  | .off => (t, false)
  | .pulse => ({ t with phase := .gap, timer := timer }, false)
  | .gap =>
    let n := t.count - 1
    if n ≠ 0 then ({ t with count := n, phase := .pulse, timer := timer }, false)
    else if t.rep then ({ t with count := t.base, phase := .pulse, terminal := false, timer := timer }, true)
    else ({ t with count := 0, phase := .off, armed := false, terminal := true, timer := none }, true)

/-! ## Masks and the reference speed (3.4, 3.5) -/

/-- R62: a channel is masked. -/
def Ev.maskChannel (e : Ev) (c : Fin 6) (cause : MaskCause) : Ev :=
  e.setChannel c fun ch => { ch with mask := some cause, request := false, awaiting := false, refreshTimer := none }

/-- R66: the reference speed is re-formed. -/
def Ev.formSpeed (e : Ev) : Ev := e.setWcu { e.wcu with refSpeed := e.referenceSpeed }

/-! ## Output suspension (3.6) -/

/-- R67: what becomes of a channel when output becomes suspended. -/
def Channel.suspend (ch : Channel) : Channel :=
  { ch with request := false, awaiting := false, refreshTimer := none, lastReply := none }

/-- R67, R68: output becomes suspended or resumes as its causes begin and end. -/
def Ev.followSuspension (e : Ev) : Ev :=
  if e.outputSuspended then
    if e.wcu.suspended then e
    else (e.setWcu { e.wcu with suspended := true }).setChannels fun _ ch => ch.suspend
  else if e.wcu.suspended then
    (e.setWcu { e.wcu with suspended := false }).setChannels fun c ch => { ch with request := ch.request || e.channelUsable c }
  else e

/-! ## Pressures and commands (3.1, 3.2) -/

/-- R53, R71: the contributions I(w) and S(w) of every wheel end. -/
def Ev.formContributions (e : Ev) : Ev :=
  e.setWcu { e.wcu with wheels := Vector.ofFn fun w =>
    { e.wcu.wheels[w] with i := e.rolloverContribution w, s := e.trainContribution e.wcu.trainB w } }

/-- R53: the final pressure of every wheel end. -/
def Ev.formFinals (e : Ev) : Ev :=
  e.setWcu { e.wcu with wheels := Vector.ofFn fun w =>
    { e.wcu.wheels[w] with
      f := e.wcu.wheels[w].w.map fun p => finalPressure p (e.effectiveRollover w) e.wcu.wheels[w].s e.wcu.wheels[w].cap } }

/-- R54, R55: every computed command is re-formed, and a channel raises its request by the deadband test or the release test. -/
def Ev.formCommands (e : Ev) : Ev :=
  e.setChannels fun c ch =>
    { ch with
      command := e.computedCommand c,
      request := ch.request ||
        (e.channelUsable c && !e.wcu.suspended && raiseTest e.tbu.active.channel.deadband ch.lastSent (e.computedCommand c)) }

/-! ## The chassis bus transmitter (3.3) -/

/-- A chassis bus identifier: kind in bits 10 to 7, node in bits 4 to 0 (11.1). -/
def chassisId (kind node : Nat) : BitVec 11 := BitVec.ofNat 11 (kind * 128 + node)

/-- R67: a channel is under a running service actuation. -/
def Service.runs (x : Service) (c : Fin 6) : Bool :=
  match x with
  | .running _ d => d = c
  | .held _ _ _ => false
  | .none => false

/-- R54, R55, R57, R67: the pressure that a channel's MOD_COMMAND carries: its computed command at the sending. A present channel without wheel
ends has none (R54); it sends 0 while PARKED, unless it is under a running service actuation, and otherwise a free pressure
(notes/assumptions/4.md). Under tables that no validation has passed a computed command can stand against another sentence of the spec, and it
is sent all the same, the model's choice: while PARKED the S(w) of a wheel end that a channel shares with one under a service actuation, to
which R67 gives 0 (notes/assumptions/47.md), and a command above the 1,000 kPa of R57 (notes/assumptions/48.md). -/
def State.sentPressure (s : State) (c : Fin 6) : Nat :=
  s.wcu.channels[c].command.getD
    (if s.asv.supply = .parked && !s.wcu.service.runs c then 0 else min 1000 (Config.freeCommand c.val))

/-- R57, R61: the sending of a channel's MOD_COMMAND with the miss test. -/
def Ev.sendChannel (e : Ev) (c : Fin 6) : Ev :=
  let ch := e.wcu.channels[c]
  let p := e.sentPressure c
  let misses := if ch.awaiting then ch.missCount + 1 else ch.missCount
  let e1 := (e.setWcu { e.wcu with tx := some { id := chassisId 5 (e.channelEntry c).node, data := packBytes (be16 p) } }).setChannel c
    fun ch => { ch with lastSent := p, request := false, refreshTimer := e.timer e.tbu.active.channel.refresh, missCount := misses,
                        awaiting := true }
  if 3 ≤ misses then e1.maskChannel c .lost else e1

/-- R14, R57: the sending of the pending valve command. -/
def Ev.sendValve (e : Ev) (k : ValveKind) : Ev :=
  let e1 := e.setWcu { e.wcu with pendingValve := none, tx := some { id := chassisId 7 31, data := packBytes [k.code] } }
  match e1.asv.valveOp with
  | some op =>
    if op.phase = .pending then
      e1.setAsv { e1.asv with valveOp := some { op with phase := .sent, valveTimer := e.timer valveMs } }
    else e1
  | none => e1

/-- R58: the channel that is sent next and the ranking after it. -/
def State.nextChannel (s : State) : Option (Fin 6 × List (Fin 6)) :=
  match s.tbu.active.channel.mode with
  | .fixed => ((List.finRange 6).find? fun c => s.wcu.channels[c].request).map fun c => (c, s.wcu.ranking)
  | .rotating =>
    (s.wcu.ranking.find? fun c => s.wcu.channels[c].request).map fun c => (c, s.wcu.ranking.filter (· != c) ++ [c])

/-- R57, R58: the transmitter, when free and not halted, takes the pending valve command or else the next pending channel. -/
def Ev.pumpChassis (e : Ev) : Ev :=
  if e.wcu.tx.isSome || e.restoring || e.apu.power != .run then e
  else
    match e.wcu.pendingValve with
    | some k => e.sendValve k
    | none =>
      match e.nextChannel with
      | some (c, ranking) => (e.setWcu { e.wcu with ranking := ranking }).sendChannel c
      | none => e

/-! ## Service actuation (3.8) -/

/-- R72: the first condition of a service actuation not met, in the order of its table. -/
def State.serviceReason (s : State) (c : Fin 6) : Option Reason :=
  if !s.stationary then some .moving
  else if s.asv.dEff != some 0 then some .braking
  else if s.asv.supply != .parked && s.asv.supply != .ready then some .notParked
  else if !s.rou.state.idle then some .busy
  else if !s.channelUsable c then some .noSuchEntry
  else none

/-- R72: train B is armed and started on the named channel, and the actuation runs. -/
def Ev.startService (e : Ev) (tag : Tag) (a : ServiceArgs) : Ev :=
  let e1 := (e.armTrain .b).startTrain .b (Vector.ofFn fun c => decide (c = a.channel)) a.pressure a.count a.pulse false
  e1.setWcu { e1.wcu with service := .running tag a.channel }

/-- R74: a running service actuation is stopped with a completion. -/
def Ev.abortService (e : Ev) (tag : Tag) (r : Result) : Ev :=
  let e1 := e.stopTrain .b
  (e1.setWcu { e1.wcu with service := .none }).result tag r

/-- R73, R169: a held service actuation ends with a completion and its slot is emptied. -/
def Ev.endHeldService (e : Ev) (r : Result) : Ev :=
  match e.wcu.service with
  | .held tag _ _ => ((e.setWcu { e.wcu with service := .none }).setLru { e.lru with slotService := none }).result tag r
  | _ => e

/-- R74: what stops a running service actuation with CANCELLED. -/
def State.serviceAborted (s : State) : Bool :=
  !s.stationary || s.asv.dEff != some 0 || s.asv.supply = .emergency || !s.rou.state.idle

/-- R73, R74: a held service actuation whose conditions are met starts, and a running one ends when its channel is masked or one of
its causes comes about (notes/assumptions/19.md, 23.md). -/
def Ev.followService (e : Ev) : Ev :=
  match e.wcu.service with
  | .none => e
  | .held tag args _ =>
    if e.serviceReason args.channel = none then (e.setLru { e.lru with slotService := none }).startService tag args else e
  | .running tag c =>
    if e.wcu.channels[c].mask.isSome then e.abortService tag .failed
    else if e.serviceAborted then e.abortService tag .cancelled
    else e

/-- R76: a running or held service actuation ends with CANCELLED. -/
def Ev.cancelService (e : Ev) : Ev :=
  match e.wcu.service with
  | .none => e
  | .held _ _ _ => e.endHeldService .cancelled
  | .running tag _ => e.abortService tag .cancelled

/-! ## Insertion and power states (3.9) -/

/-- R75: a channel whose entry changed is reset, and raises its request if it is present and output is not suspended. -/
def Ev.insertChannels (e : Ev) (old : ChannelTable) : Ev :=
  e.setChannels fun c ch =>
    if old.entries[c] = e.channelEntry c then ch
    else { command := ch.command, request := (e.channelEntry c).present && !e.wcu.suspended }

/-- R76: the channel records restart on the return to RUN. -/
def Ev.channelsReturn (e : Ev) : Ev :=
  (e.setChannels fun _ ch => { command := ch.command }).setWcu
    { (e.setChannels fun _ ch => { command := ch.command }).wcu with ranking := [0, 1, 2, 3, 4, 5] }

end Sys2Proof.Machine
end

