-- ==== Sys2Proof/Machine/RouOps.lean ====
section
/-! DEFINITION. The shared operations of the rollover unit (chapter 4): thresholds, the tests of a lateral sample in each stability state,
probing and lift, intervention, ramp-down, sensor failure, episodes, and its rules for an insertion, STANDBY, RUN and restore. -/

namespace Sys2Proof.Machine

/-- The ROLL table in force. -/
def State.rollTable (s : State) : RollTable := s.tbu.active.roll

/-- The stability state changed. -/
def Ev.setStability (e : Ev) (st : Stability) : Ev := e.setRou { e.rou with state := st }

/-- |a| of the last sample. -/
def Rou.magnitude (r : Rou) : Nat := r.lastSample.natAbs

/-! ## Thresholds (4.3) -/

/-- R92 test 3, R93: the hold timer is tested against the exit threshold. -/
def Ev.testHold (e : Ev) : Ev :=
  if e.rou.exitT ≤ e.rou.magnitude then e.setRou { e.rou with holdTimer := none }
  else
    match e.rou.holdTimer with
    | some _ => e
    | none => e.setRou { e.rou with holdTimer := e.timer e.rollTable.hold }

/-- R80 to R82: the thresholds of a rollover unit with k for a table and a total load. -/
def Rou.withThresholds (r : Rou) (t : RollTable) (load : Nat) : Rou :=
  let aTab := tabledThreshold t load
  let aLim := tippingLimit t aTab r.k
  { r with aTab := aTab, aLim := aLim, watchT := permille aLim t.watch, probeT := permille aLim t.probe, exitT := permille aLim t.exit }

/-- R82, R93: the thresholds are re-formed, and in INTERVENE the hold timer is tested at once. -/
def Ev.formThresholds (e : Ev) : Ev :=
  let e1 := e.setRou (e.rou.withThresholds e.rollTable e.lap.totalLoad)
  if e1.rou.state = .intervene then e1.testHold else e1

/-! ## Sides (4.4) -/

/-- R83: the inner side. -/
def Sign.inner : Sign → Side
  | .positive => .left
  | .negative => .right

/-- R83: the sign of a value that is not 0; 0 keeps the sign. -/
def Sign.after (s : Sign) (a : Int) : Sign := if 0 < a then .positive else if a < 0 then .negative else s

/-- R83: the inner channels. -/
def State.innerChannels (s : State) : Vector Bool 6 :=
  Vector.ofFn fun c => (s.channelEntry c).present && (s.channelEntry c).side = s.rou.sign.inner

/-- R86, R87: some inner channel is unmasked. -/
def State.innerUsable (s : State) : Bool :=
  (List.finRange 6).any fun c => (s.channelEntry c).side = s.rou.sign.inner && s.channelUsable c

/-! ## State entries -/

/-- R84, R85, R89: entry into WATCH arms train A. -/
def Ev.enterWatch (e : Ev) : Ev := (e.armTrain .a).setStability .watch

/-- R85, R87: entry into QUIET from WATCH or PROBE. -/
def Ev.enterQuiet (e : Ev) : Ev := e.setRou { e.rou with state := .quiet, probeDone := false }

/-- R86: train A is started on the inner channels. -/
def Ev.startProbe (e : Ev) : Ev :=
  (e.startTrain .a e.innerChannels e.rollTable.probePressure e.rollTable.probeCount e.rollTable.pulseLength e.rollTable.rep).setStability
    .probe

/-- R91: the intervention pressures by the current sign. -/
def State.fullPressures (s : State) : Vector Nat 8 :=
  Vector.ofFn fun w =>
    if s.tbu.active.axle[wheelAxle w].present then
      (if wheelSide w = s.rou.sign.inner then s.rollTable.inner else s.rollTable.outer)
    else 0

/-- R102: the episode that begins with an intervention. -/
def State.newEpisode (s : State) (cause : EpisodeCause) : Episode :=
  { entryTime := s.apu.seconds, cause := cause, totalLoad := s.lap.totalLoad, aLim := s.rou.aLim, peak := s.rou.magnitude,
    speed := s.wcu.refSpeed, shadow := s.rollTable.shadow, start := s.clock }

/-- R91: entry into INTERVENE from WATCH or PROBE. -/
def Ev.enterIntervene (e : Ev) (cause : EpisodeCause) : Ev :=
  let e1 := e.stopTrain .a
  (e1.setRou { e1.rou with
    state := .intervene, holdTimer := none, pressures := e1.fullPressures, probeDone := false,
    episode := some (e1.newEpisode cause) }).occur .rollIntervention

/-- R91, R96: entry into INTERVENE from HOLDOFF, the episode continuing. -/
def Ev.resumeIntervene (e : Ev) : Ev :=
  e.setRou { e.rou with state := .intervene, holdTimer := none, rampTimer := none, pressures := e.fullPressures, probeDone := false }

/-- R94: entry into HOLDOFF. -/
def Ev.enterHoldoff (e : Ev) : Ev :=
  e.setRou { e.rou with state := .holdoff, holdTimer := none, rampTimer := e.timer e.rollTable.rampInterval }

/-- R103: the episode ends and its record is queued. -/
def Ev.endEpisode (e : Ev) (how : EpisodeEnd) : Ev :=
  match e.rou.episode with
  | some ep => (e.setRou { e.rou with episode := none }).queueEvent (rollRecord ep (e.clock - ep.start) how)
  | none => e

/-- R97: the watch test at the end of HOLDOFF. -/
def State.watchAgain (s : State) : Bool := decide (s.rou.watchT ≤ s.rou.magnitude) && decide (s.rollTable.vMin ≤ s.wcu.refSpeed)

/-- R97: HOLDOFF ends. -/
def Ev.endHoldoff (e : Ev) : Ev :=
  let e1 := e.setRou { e.rou with rampTimer := none, lockoutTimer := e.timer e.rollTable.lockout }
  let e2 := e1.endEpisode (if e.rou.sensorMark then .sensorLost else .ramped)
  let e3 := (e2.setRou { e2.rou with lifted := Vector.replicate 8 false }).formSpeed
  if e3.rou.sensorMark then e3.setRou { e3.rou with state := .off .sensorLost, sensorMark := false, goodCount := 0, probeDone := false }
  else if e3.watchAgain then e3.enterWatch
  else e3.enterQuiet

/-- R95: the pressures after one ramp step. -/
def Rou.ramped (r : Rou) (step : Nat) : Vector Nat 8 := Vector.ofFn fun w => r.pressures[w] - step

/-- R95: a ramp step. -/
def Ev.ramp (e : Ev) : Ev :=
  let e1 := e.setRou { e.rou with pressures := e.rou.ramped e.rollTable.rampStep, rampTimer := none }
  if (List.finRange 8).any fun w => decide (0 < e1.rou.pressures[w]) then
    e1.setRou { e1.rou with rampTimer := e.timer e.rollTable.rampInterval }
  else e1.endHoldoff

/-! ## Sensor failure (4.9) -/

/-- R99: the effect of a sensor failure in each state. -/
def Ev.sensorFailure (e : Ev) : Ev :=
  let e1 := e.setRou { e.rou with sensorLost := true }
  match e.rou.state with
  | .quiet => e1.setRou { e1.rou with state := .off .sensorLost, probeDone := false, goodCount := 0 }
  | .watch => e1.setRou { e1.rou with state := .off .sensorLost, probeDone := false, goodCount := 0 }
  | .probe =>
    let e2 := e1.stopTrain .a
    e2.setRou { e2.rou with state := .off .sensorLost, probeDone := false, goodCount := 0 }
  | .intervene =>
    let e2 := e1.enterHoldoff
    e2.setRou { e2.rou with sensorMark := true }
  | .holdoff => e1.setRou { e1.rou with sensorMark := true }
  | .off .sensorLost => e1.setRou { e1.rou with goodCount := 0 }
  | .off .disabled => e

/-! ## The tests of a good sample (4.5 to 4.9) -/

/-- R84. -/
def Ev.testQuiet (e : Ev) : Ev :=
  if e.watchAgain then
    (if e.rou.aLim ≤ e.rou.magnitude then e.enterWatch.enterIntervene .lateral else e.enterWatch)
  else e

/-- R86: the probe test, made with shadow mode clear (R85, R101). -/
def State.probeTest (s : State) : Bool :=
  !s.rollTable.shadow && decide (s.rou.probeT ≤ s.rou.magnitude) && s.wcu.trainA.armed && s.rou.lockoutTimer.isNone &&
    s.rollTable.probeCount != 0 && !s.rou.probeDone && s.innerUsable

/-- R85, R87 test 1: the curve has ended or the trailer is slow. -/
def State.curveOver (s : State) : Bool := decide (s.rou.magnitude < s.rou.watchT) || decide (s.wcu.refSpeed < s.rollTable.vMin)

/-- R85. -/
def Ev.testWatch (e : Ev) : Ev :=
  if e.curveOver then e.enterQuiet
  else if e.rou.aLim ≤ e.rou.magnitude then e.enterIntervene .lateral
  else if e.probeTest then e.startProbe
  else e

/-- R87; `reversal`: the sample is a sign reversal. -/
def Ev.testProbe (e : Ev) (reversal : Bool) : Ev :=
  if e.curveOver then (e.stopTrain .a).enterQuiet
  else if e.rou.aLim ≤ e.rou.magnitude then e.enterIntervene .lateral
  else if reversal && decide (e.rou.magnitude < e.rou.probeT) then (e.stopTrain .a).enterWatch
  else if reversal then (if e.innerUsable then e.startProbe else (e.stopTrain .a).enterWatch)
  else e

/-- R92. -/
def Ev.testIntervene (e : Ev) (reversal : Bool) : Ev :=
  if e.wcu.refSpeed < e.rollTable.vMin then e.enterHoldoff
  else (if reversal then e.setRou { e.rou with pressures := e.fullPressures } else e).testHold

/-- R96. -/
def Ev.testHoldoff (e : Ev) : Ev := if !e.rou.sensorMark && decide (e.rou.aLim ≤ e.rou.magnitude) then e.resumeIntervene else e

/-- R100. -/
def Ev.countGood (e : Ev) : Ev :=
  if 5 ≤ e.rou.goodCount + 1 then e.setRou { e.rou with state := .quiet, sensorLost := false, goodCount := 0 }
  else e.setRou { e.rou with goodCount := e.rou.goodCount + 1 }

/-- 5.5: a lateral acceleration clamped to -1,500 to 1,500. -/
def clampLateral (x : BitVec 16) : Int := max (-1500) (min 1500 x.toInt)

/-- R78: the peak of the episode is raised. -/
def Rou.raisePeak (r : Rou) : Rou :=
  if r.state = .holdoff ∧ r.sensorMark = true then r
  else { r with episode := r.episode.map fun ep => { ep with peak := max ep.peak r.magnitude } }

/-- R78, R83: a good sample is stored with its sign, restarts the lateral timer and raises the peak. -/
def Rou.store (r : Rou) (a : Int) (timer : Timer) : Rou :=
  { r with lastSample := a, sign := r.sign.after a, lateralTimer := timer }.raisePeak

/-- R83: whether a value is a sign reversal against the current sign. -/
def Sign.reversed (s : Sign) (a : Int) : Bool := s.after a != s

/-- R78: a good lateral sample is taken. -/
def Ev.takeLateral (e : Ev) (a : Int) : Ev :=
  let e1 := e.setRou (e.rou.store a (e.timer lateralMs))
  match e.rou.state with
  | .quiet => e1.testQuiet
  | .watch => e1.testWatch
  | .probe => e1.testProbe (e.rou.sign.reversed a)
  | .intervene => e1.testIntervene (e.rou.sign.reversed a)
  | .holdoff => e1.testHoldoff
  | .off .sensorLost => e1.countGood
  | .off .disabled => e

/-! ## Lift (4.6) -/

/-- R88: the wheel ends of a channel are marked lifted. -/
def State.liftedBy (s : State) (c : Fin 6) : Vector Bool 8 := Vector.ofFn fun w => s.rou.lifted[w] || (s.channelEntry c).serves w

/-- R88: whether a reply of a channel is a hit. -/
def State.liftHit (s : State) (c : Fin 6) (speed : Nat) : Bool :=
  s.rou.state = .probe && s.wcu.trainA.phase = .pulse && s.wcu.trainA.targets[c] &&
    decide (speed < s.wcu.refSpeed * (1000 - s.rollTable.lift) / 1000)

/-- R88: a reply handed by the wheel-end channel unit is tested for lift. -/
def Ev.testLift (e : Ev) (c : Fin 6) (speed : Nat) : Ev :=
  if e.liftHit c speed then
    (((e.setRou { e.rou with lifted := e.liftedBy c }).formSpeed).stopTrain .a).enterIntervene .lift
  else e

/-- R89: train A has reached its terminal count. -/
def Ev.probeEnded (e : Ev) : Ev :=
  if e.rou.state = .probe ∧ e.wcu.trainA.rep = false then (e.setRou { e.rou with probeDone := true }).enterWatch else e

/-! ## Insertion, power states and restore (4.13) -/

/-- R105: the change of the enabled field at an insertion. -/
def Ev.insertRollover (e : Ev) (before : Bool) : Ev :=
  match before, e.rollTable.enabled with
  | true, false =>
    e.setRou { e.rou with
      state := .off .disabled, lateralTimer := none, lockoutTimer := none, holdTimer := none, probeDone := false, sensorLost := false }
  | false, true =>
    e.setRou { e.rou with
      state := .quiet, lateralTimer := if e.apu.power = .run then e.timer lateralMs else none, goodCount := 0 }
  | _, _ => e

/-- R106: entry into STANDBY. -/
def Ev.rouStandby (e : Ev) : Ev :=
  let e1 := (e.stopTrain .a).endEpisode .standby
  e1.setRou { e1.rou with
    pressures := Vector.replicate 8 0, lifted := Vector.replicate 8 false, lateralTimer := none, holdTimer := none, rampTimer := none,
    lockoutTimer := none, sensorMark := false, probeDone := false, goodCount := 0, sensorLost := false,
    state := if e1.rou.state = .off .disabled then .off .disabled else .quiet }

/-- R79: the lateral timer starts unless the unit is OFF with cause DISABLED. -/
def Ev.startLateral (e : Ev) : Ev :=
  if e.rou.state = .off .disabled then e else e.setRou { e.rou with lateralTimer := e.timer lateralMs }

/-- R106: return to RUN. -/
def Ev.rouReturn (e : Ev) : Ev := e.startLateral.formThresholds

/-- R107: the end of restore. -/
def Ev.rouRestored (e : Ev) : Ev :=
  ((if e.rollTable.enabled then e else e.setStability (.off .disabled)).formThresholds).startLateral

end Sys2Proof.Machine
end

