-- ==== Sys2Proof/Machine/TyreOps.lean ====
section
/-! DEFINITION. The shared operations of the tyre watch and the registry (chapters 5 and 6): accepted telegrams, the learn rules, binding
changes with their records, the deflated count, and the rules for an insertion, STANDBY, SLEEP, RUN and restore. -/

namespace Sys2Proof.Machine

/-- The TYRE table in force. -/
def State.tyreTable (s : State) : TyreTable := s.tbu.active.tyre

/-- One registry entry replaced. -/
def Ev.setEntry (e : Ev) (i : Fin 20) (b : Option Bound) : Ev := e.setTwu { e.twu with entries := e.twu.entries.set i b }

/-- The reading record of an entry changed, if the entry is bound. -/
def Ev.setReading (e : Ev) (i : Fin 20) (f : Reading → Reading) : Ev :=
  e.setTwu { e.twu with entries := modifyAt e.twu.entries i fun b => b.map fun x => { x with reading := f x.reading } }

/-- Every bound entry's reading record changed. -/
def Ev.setReadings (e : Ev) (f : Bound → Reading) : Ev :=
  e.setTwu { e.twu with entries := Vector.ofFn fun i => e.twu.entries[i].map fun b => { b with reading := f b } }

/-- The entry that holds an identifier (R130: there is at most one). -/
def State.holderOf (s : State) (ident : BitVec 32) : Option (Fin 20) :=
  (List.finRange 20).find? fun i => match s.twu.entries[i] with | some b => b.ident = ident | none => false

/-- The entry bound to a binding (R130: there is at most one). -/
def State.entryAt (s : State) (binding : Binding) : Option (Fin 20) :=
  (List.finRange 20).find? fun i => match s.twu.entries[i] with | some b => b.binding = binding | none => false

/-- R130: the first empty entry. -/
def State.firstEmpty (s : State) : Option (Fin 20) := (List.finRange 20).find? fun i => s.twu.entries[i].isNone

/-- A binding that the active AXLE table allows (6.1). -/
def State.validBinding (s : State) (b : Binding) : Bool := bindingValid s.tbu.active.axle b

/-! ## Deflation (5.6) -/

/-- R121, R81: the deflated count is re-formed, and a changed k re-forms the rollover thresholds (notes/assumptions/25.md). -/
def Ev.formDeflated (e : Ev) : Ev :=
  let n := e.deflatedCount
  let e1 := e.setTwu { e.twu with deflated := n }
  if min 4 n = e.rou.k then e1 else (e1.setRou { e1.rou with k := min 4 n }).formThresholds

/-- R52: every tyre cap is re-formed. -/
def Ev.formCaps (e : Ev) : Ev :=
  e.setWcu { e.wcu with wheels := Vector.ofFn fun w => { e.wcu.wheels[w] with cap := e.tyreCap w } }

/-! ## Accepted telegrams (5.2 to 5.5) -/

/-- R119: the length of a missing timer. -/
def State.missingMs (s : State) : Nat := if s.apu.power = .run ∧ 50 < s.wcu.refSpeed then missingMovingMs else missingStandingMs

/-- R112: the reference cold pressure of a binding. -/
def State.coldReference (s : State) : Binding → Nat
  | .tyre a _ _ => s.tyreTable.axles[a].pRef
  | .spare _ =>
    ((List.finRange 4).map fun a => if s.tbu.active.axle[a].present then s.tyreTable.axles[a].pRef else 0).foldl max 0

/-- R111 to R117: the reading record after an accepted telegram. -/
def Reading.accept (r : Reading) (t : TyreTable) (adj : Int) (x : Telegram) (missing window : Timer) : Reading :=
  { level := newLevel t adj x.pressure x.rapidLoss r.level, pressure := some x.pressure, temperature := some x.temperature,
    count := some x.count, adj := some adj, hot := newHot t.hotLimit x.temperature r.hot, battery := x.batteryLow, stale := false,
    deflMissing := false, missingTimer := missing, repeatWindow := window }

/-- R123: a level change that queues a TYRE_EVENT record. -/
def levelEvent (before after : Level) : Bool := after != before && (after = .deflated || after = .lowAlarm)

/-- R111 to R117, R123: a telegram is accepted for an entry. -/
def Ev.acceptTelegram (e : Ev) (i : Fin 20) (x : Telegram) : Ev :=
  match e.twu.entries[i] with
  | none => e
  | some b =>
    let adj := adjusted (e.coldReference b.binding) x.temperature
    let r := b.reading.accept e.tyreTable adj x (e.timer e.missingMs) (e.timer repeatMs)
    let e1 := e.setEntry i (some { b with reading := r })
    if b.binding.isTyre && levelEvent b.reading.level r.level then
      e1.queueEvent (tyreRecord e.apu.seconds b.binding b.ident x.pressure x.temperature r.level x.rapidLoss)
    else e1

/-! ## Binding changes (6.2) -/

/-- R124: the reading record of an entry that is bound or takes a new identifier. -/
def State.newReading (s : State) (binding : Binding) : Reading :=
  { missingTimer := if s.validBinding binding then s.timer s.missingMs else none }

/-- R124, R125: the reading record of an entry that moves to another binding. -/
def State.movedReading (s : State) (b : Bound) (binding : Binding) : Reading :=
  match s.validBinding b.binding, s.validBinding binding with
  | true, true => b.reading
  | true, false => {}
  | false, true => s.newReading binding
  | false, false => b.reading

/-- R131: an entry changes and its REG_ENTRY record is queued; room has been secured. -/
def Ev.changeEntry (e : Ev) (i : Fin 20) (b : Option Bound) : Ev := (e.setEntry i b).queueRecord (regRecord i b)

/-- R131, R124: an entry takes an identifier and a binding. -/
def Ev.bindEntry (e : Ev) (i : Fin 20) (ident : BitVec 32) (binding : Binding) : Ev :=
  e.changeEntry i (some { ident := ident, binding := binding, reading := e.newReading binding })

/-- R131, R139: a bound entry moves to another binding. -/
def Ev.moveEntry (e : Ev) (i : Fin 20) (binding : Binding) : Ev :=
  match e.twu.entries[i] with
  | some b => e.changeEntry i (some { b with binding := binding, reading := e.movedReading b binding })
  | none => e

/-- R133, R136: the entry that a binding and a new identifier go to: the one bound there, or else the first empty one. -/
def State.bindTarget (s : State) (binding : Binding) : Option (Fin 20) :=
  match s.entryAt binding with
  | some i => some i
  | none => s.firstEmpty

/-! ## Learn window and exchange half (6.3, 6.5) -/

/-- R133, R135: the learn window closes with an answer. -/
def Ev.closeLearn (e : Ev) (r : Result) (reason : Reason) : Ev :=
  match e.twu.learn with
  | some w => (e.setTwu { e.twu with learn := none }).answer { tag := w.tag, result := r, reason := reason }
  | none => e

/-- R140: the exchange half ends with a completion. -/
def Ev.closeHalf (e : Ev) (r : Result) : Ev :=
  match e.twu.half with
  | some h => (e.setTwu { e.twu with half := none }).result h.tag r
  | none => e

/-- R134: a duplicate is answered once for each identifier. 6.1 gives the set up to 20 identifiers; one more, which changes of the registry
within the window make possible, is answered and added too, the model's choice (notes/assumptions/40.md). -/
def Ev.answerDuplicate (e : Ev) (w : LearnWindow) (b : Bound) : Ev :=
  if w.answered.contains b.ident then e
  else
    (e.setTwu { e.twu with learn := some { w with answered := w.answered ++ [b.ident] } }).answer
      { tag := w.tag, result := .refused, reason := .duplicate, data := be32 b.ident.toNat ++ [bindingByte (some b.binding)] }

/-- R133: the learn rules take a triggered telegram; nothing without a window. What the binding ends (R124, R131) is handed on before the
binding telegram is accepted, so that a condition that the telegram brings back begins anew (R122, R174). The LEARN's completion is queued here,
before what the closing work of the event completes, such as the FAILED of a service actuation whose channel the event's sending masks: the spec
gives the two no order, and this one is the model's choice (notes/assumptions/9.md). -/
def Ev.learnFrom (e : Ev) (x : Telegram) : Ev :=
  match e.twu.learn with
  | none => e
  | some w =>
    match e.holderOf x.ident with
    | some j =>
      match e.twu.entries[j] with
      | some b => if b.binding = w.binding then e.closeLearn .done .noReason else e.answerDuplicate w b
      | none => e
    | none =>
      match e.bindTarget w.binding with
      | none => e
      | some i =>
        if e.roomFor [1] then
          let e1 := (((e.bindEntry i x.ident w.binding).closeLearn .done .noReason).formDeflated).handConditions
          if e1.validBinding w.binding then e1.acceptTelegram i x else e1
        else e.closeLearn .failed .storeFull

/-- R109: whether a telegram goes to the learn rules. -/
def State.teaches (s : State) (x : Telegram) : Bool := s.twu.learn.isSome && x.learnTrigger

/-- R110: whether a telegram is a repeat for a reading record. -/
def Reading.isRepeat (r : Reading) (x : Telegram) : Bool := r.count = some x.count && r.repeatWindow.isSome

/-- R108 to R111: a telegram that arrives while telegrams are taken. -/
def Ev.takeTelegram (e : Ev) (x : Telegram) : Ev :=
  if validIdent x.ident then
    match e.holderOf x.ident with
    | none => if e.teaches x then e.learnFrom x else e.setTwu { e.twu with foreign := satAdd 65535 e.twu.foreign 1 }
    | some i =>
      match e.twu.entries[i] with
      | none => e
      | some b =>
        if e.evaluated b then
          if b.reading.isRepeat x then e.setTwu { e.twu with repeats := satAdd 65535 e.twu.repeats 1 }
          else
            let e1 := e.acceptTelegram i x
            if e1.teaches x then e1.learnFrom x else e1
        else if e.teaches x then e.learnFrom x
        else e
  else e.setTwu { e.twu with invalid := satAdd 65535 e.twu.invalid 1 }

/-! ## Missing tyres (5.5) -/

/-- R120, R117: the reading record after its missing timer expires. -/
def Reading.miss (r : Reading) : Reading :=
  { r with level := .missing, stale := true, hot := false, deflMissing := r.deflMissing || r.level = .deflated, missingTimer := none }

/-! ## Insertion, power states and restore (5.7, 5.9, 6.7) -/

/-- R125: the reading records at an insertion that replaces the AXLE table `old`. -/
def Ev.insertReadings (e : Ev) (old : Vector AxleEntry 4) : Ev :=
  e.setReadings fun b =>
    match bindingValid old b.binding, e.validBinding b.binding with
    | true, false => {}
    | false, true => e.newReading b.binding
    | _, _ => b.reading

/-- R142: the learn window and the exchange half at an insertion. -/
def Ev.testWindows (e : Ev) : Ev :=
  let e1 :=
    match e.twu.learn with
    | some w => if e.validBinding w.binding then e else e.closeLearn .cancelled .noReason
    | none => e
  match e1.twu.half with
  | some h => if e1.validBinding h.binding then e1 else e1.closeHalf .cancelled
  | none => e1

/-- R144: entry into STANDBY. -/
def Ev.twuStandby (e : Ev) : Ev := (e.closeLearn .cancelled .noReason).closeHalf .cancelled

/-- R128: entry into SLEEP. -/
def Ev.twuSleep (e : Ev) : Ev :=
  e.setReadings fun b =>
    { b.reading with missingTimer := none, repeatWindow := none, stale := b.reading.stale || b.reading.pressure.isSome }

/-- R128: return to RUN from SLEEP. -/
def Ev.twuWake (e : Ev) : Ev :=
  e.setReadings fun b =>
    if e.evaluated b && b.reading.level != .missing then { b.reading with missingTimer := e.timer missingStandingMs } else b.reading

/-- R129, R119: the end of restore. -/
def Ev.twuRestored (e : Ev) : Ev :=
  e.setReadings fun b => if e.evaluated b then { b.reading with missingTimer := e.timer missingStandingMs } else b.reading

end Sys2Proof.Machine
end

