-- ==== Sys2Proof/Machine/Insertion.lean ====
section
/-! DEFINITION. The insertion of chapter 7: the validation checks V1 to V7, the tables that differ, the room they need, and the handing on to
every block; and the settling of an event, in which every block re-forms what depends on what the event changed. -/

namespace Sys2Proof.Machine

/-! ## Validation (R153); each check answers the failing entry (notes/assumptions/18.md) -/

/-- The first number of a list with a property. -/
def firstWith (l : List Nat) (p : Nat → Bool) : Option Nat := l.find? p

/-- The present axles of a set of tables. -/
def Tables.presentAxles (t : Tables) : List (Fin 4) := (List.finRange 4).filter fun a => t.axle[a].present

/-- The present channels of a set of tables. -/
def Tables.presentChannels (t : Tables) : List (Fin 6) := (List.finRange 6).filter fun c => t.channel.entries[c].present

/-- V1: breakpoint j + 1 of an axle's table against the one before. -/
def loadPairBad (t : LoadTable) (a : Fin 4) (j : Nat) : Bool :=
  match t.points[8 * a.val + j]?, t.points[8 * a.val + j + 1]? with
  | some p, some q => !(decide (p.bag < q.bag) && decide (p.load ≤ q.load))
  | _, _ => true

/-- V1 for one axle. -/
def loadAxleCheck (t : LoadTable) (a : Fin 4) : Option Nat :=
  if 2 ≤ t.counts[a] ∧ t.counts[a] ≤ 8 then
    (firstWith (List.range (t.counts[a] - 1)) (loadPairBad t a)).map fun j => 8 * a.val + j + 1
  else some (8 * a.val)

/-- V1: every present axle has 2 to 8 breakpoints, bag pressures strictly rising and loads not falling. -/
def checkV1 (t : Tables) : Option Nat := t.presentAxles.findSome? fun a => loadAxleCheck t.load a

/-- V2: r_min at most 1,000 and the fallback ratio at least r_min. -/
def checkV2 (t : Tables) : Option Nat :=
  (t.presentAxles.find? fun a => !(decide (t.axle[a].rMin ≤ 1000) && decide (t.axle[a].rMin ≤ t.axle[a].fallback))).map (·.val + 1)

/-- V3: whether a channel fails against the present axles or against a lower-numbered present channel. -/
def channelBad (t : Tables) (c : Fin 6) : Bool :=
  let x := t.channel.entries[c]
  ((List.finRange 4).all fun a => !x.axles[a]) || ((List.finRange 4).any fun a => x.axles[a] && !t.axle[a].present) || x.node = 31 ||
    t.presentChannels.any fun d =>
      decide (d < c) &&
        (t.channel.entries[d].node = x.node ||
          ((t.channel.entries[d].side = x.side) && (List.finRange 4).any fun a => x.axles[a] && t.channel.entries[d].axles[a]))

/-- V3: channels serve present axles, share no wheel end and no node. -/
def checkV3 (t : Tables) : Option Nat := (t.presentChannels.find? fun c => channelBad t c).map (·.val + 1)

/-- V4: breakpoint j + 1 of the ROLL table against the one before. -/
def rollPairBad (t : RollTable) (j : Nat) : Bool :=
  match t.points[j]?, t.points[j + 1]? with
  | some p, some q => !(decide (p.load < q.load) && decide (q.threshold ≤ p.threshold))
  | _, _ => true

/-- V4: 2 to 6 breakpoints, loads strictly rising, thresholds not rising and not below a_floor; exit below watch below probe below
1,000. -/
def checkV4 (t : Tables) : Option Nat :=
  let r := t.roll
  if 2 ≤ r.count ∧ r.count ≤ 6 ∧ r.aFloor ≤ ((r.points[r.count - 1]?).map (·.threshold)).getD 0 then
    match firstWith (List.range (r.count - 1)) (rollPairBad r) with
    | some j => some (j + 2)
    | none => if r.exit < r.watch ∧ r.watch < r.probe ∧ r.probe < 1000 then none else some 7
  else some 0

/-- V5: deflate below alarm below warn below 1,000 below high; derate caps at least 150. -/
def checkV5 (t : Tables) : Option Nat :=
  let y := t.tyre
  if y.deflate < y.alarm ∧ y.alarm < y.warn ∧ y.warn < 1000 then
    match t.presentAxles.find? fun a => decide (y.axles[a].derate < 150) with
    | some a => some (a.val + 1)
    | none => if 1000 < y.high then none else some 5
  else some 0

/-- V6: emergency below recovery; ready at most release; emergency demand at most 1,000. -/
def checkV6 (t : Tables) : Option Nat :=
  let u := t.supply
  if u.emergency < u.recovery ∧ u.ready ≤ u.release then (if u.emergencyDemand ≤ 1000 then none else some 1) else some 0

/-- V7: an enabled rollover unit has a present channel on each side. -/
def checkV7 (t : Tables) : Option Nat :=
  if !t.roll.enabled ||
      ((t.presentChannels.any fun c => t.channel.entries[c].side = .left) &&
        t.presentChannels.any fun c => t.channel.entries[c].side = .right) then none
  else some 0

/-- A failed validation: the check's number, the table reported and the entry (R154). -/
structure CheckFailure where
  check : Nat
  table : TableId
  entry : Nat
  deriving DecidableEq, Repr

/-- R153: the first failure in the order of the checks. -/
def validate (t : Tables) : Option CheckFailure :=
  [(checkV1 t).map (CheckFailure.mk 1 .load), (checkV2 t).map (CheckFailure.mk 2 .axle), (checkV3 t).map (CheckFailure.mk 3 .channel),
    (checkV4 t).map (CheckFailure.mk 4 .roll), (checkV5 t).map (CheckFailure.mk 5 .tyre), (checkV6 t).map (CheckFailure.mk 6 .supply),
    (checkV7 t).map (CheckFailure.mk 7 .channel)].findSome? id

/-! ## The tables that differ (R155) -/

/-- The seven tables in order. -/
def allTables : List TableId := [.axle, .load, .channel, .roll, .tyre, .supply, .alert]

/-- R155: whether a table's content is the same in two copies. -/
def sameTable (t u : Tables) : TableId → Bool
  | .axle => t.axle == u.axle
  | .load => t.load == u.load
  | .channel => t.channel == u.channel
  | .roll => t.roll == u.roll
  | .tyre => t.tyre == u.tyre
  | .supply => t.supply == u.supply
  | .alert => t.alert == u.alert

/-- R155: the tables that differ. -/
def differing (t u : Tables) : List TableId := allTables.filter fun id => !sameTable t u id

/-! ## Settling an event -/

/-- Every block re-forms what depends on what the event changed, in the order of the chapters' handing on: output suspension, reference
speed, service actuation, auto-park timer, total load, caps and deflated count, targets and W, contributions, final pressures and
channel commands (R40, R41, R43, R52 to R55, R66 to R68, R73, R74, R17; notes/assumptions/23.md). -/
def Ev.formTotal (e : Ev) : Ev :=
  let total := totalLoadOf e.tbu.active.axle e.lap.axles
  if total = e.lap.totalLoad then e else (e.setLap { e.lap with totalLoad := total }).formThresholds

/-- The pressures from targets to channel commands (R36 to R41, R53 to R55). -/
def Ev.formPressures (e : Ev) : Ev := e.formCaps.formTargets.formApportioned.formContributions.formFinals.formCommands

/-- What follows from speed and state rather than from pressures (R66 to R68, R73, R74, R17, R42, R121). -/
def Ev.formStates (e : Ev) : Ev := e.followSuspension.formSpeed.followService.followAutoPark.formTotal.formDeflated

/-- Everything derived is re-formed. -/
def Ev.reform (e : Ev) : Ev := e.formStates.formPressures

/-- R178, R180: the configured mark. -/
def Ev.formConfigured (e : Ev) : Ev :=
  e.setApu { e.apu with configured := (List.finRange 6).any fun c => (e.channelEntry c).present }

/-! ## The insertion (R152, R154, R156) -/

/-- R154: an insertion that fails. -/
def Ev.failInsertion (e : Ev) (tag : Tag) (reason : Reason) (table entry : Nat) : Ev :=
  (e.occur .tableInsertFailed).answer
    { tag := tag, result := .failed, reason := reason, data := [BitVec.ofNat 8 table, BitVec.ofNat 8 entry] }

/-- R152 steps 3 and 4: the active tables take the shadow and the TABLE records are queued. -/
def Ev.moveTables (e : Ev) : Ev :=
  let e1 := (differing e.tbu.active e.tbu.shadow).foldl (fun acc id => acc.queueRecord (tableRecord e.tbu.shadow id)) e
  e1.setTbu { e1.tbu with active := e1.tbu.shadow, differs := false }

/-- R48: after the load records the load apportioner re-forms, in order, every ratio, target and W(w) (with the caps of R75), the total load,
and OVERLOAD and LOAD_SENSOR_STALE, which it hands on. -/
def Ev.insertLoads (e : Ev) : Ev :=
  let e1 := e.formCaps.formTargets.formApportioned.formTotal
  (e1.handCondition .overload e1.overload).handCondition .loadSensorStale e1.loadSensorStale

/-- R156: the insertion is handed to every block. A missing timer that it starts takes its length (R119) from the reference speed as it stood
before the wheel-end channel unit formed it again, the model's choice (notes/assumptions/39.md). -/
def Ev.handInsertion (e : Ev) (old : Tables) : Ev :=
  let e1 := (((e.insertAxles old).insertReadings old.axle).testWindows).insertChannels old.channel
  ((((e1.insertLoads.formDeflated.formThresholds).insertRollover old.roll.enabled).reform).setActivity.formConfigured).reformLamp

/-- R152 steps 1 and 2, R154, R155: what stops an insertion, as its answer carries it: the reason, the table and the entry. -/
def State.insertionStop (s : State) : Option (Reason × Nat × Nat) :=
  match validate s.tbu.shadow with
  | some f => some (.check f.check, f.table.code, f.entry)
  | none =>
    let tables := differing s.tbu.active s.tbu.shadow
    if tables.isEmpty || s.roomFor (tables.map tableSlots) then none else some (.storeFull, 0, 0)

/-- R152 steps 3 to 5: the insertion itself. -/
def Ev.carryOut (e : Ev) : Ev := (e.moveTables).handInsertion e.tbu.active

/-- R152: a held insert is performed and answered to its tag. -/
def Ev.performInsertion (e : Ev) (tag : Tag) : Ev :=
  match e.insertionStop with
  | some (reason, table, entry) => e.failInsertion tag reason table entry
  | none => e.carryOut.result tag .done

/-- R46, R150: the brake-release event performs a held insert. Its completion is queued as the insertion ends, before what the closing work of the
event completes afterwards, the model's choice (notes/assumptions/9.md). -/
def Ev.brakeRelease (e : Ev) : Ev :=
  match e.tbu.heldInsert with
  | some tag =>
    ((e.handConditions.setTbu { e.handConditions.tbu with heldInsert := none }).setLru
      { e.handConditions.lru with slotInsert := none }).performInsertion tag
  | none => e

/-- R45, R46: everything is re-formed, then the brake activity flag once, and its clearing is the brake-release event. -/
def Ev.settle (e : Ev) : Ev :=
  let e1 := e.reform
  let e2 := e1.setActivity
  if e1.lap.brakeActive && !e2.lap.brakeActive then e2.brakeRelease else e2

/-- An event that touches the jobs ends: it settles and the conditions are handed on, the chassis bus transmitter takes what waits, what a miss
at that sending brought about settles too, and records and conditions are handed on (R45, R57, R61, R174, R190). A condition that the event
ended and the sending brings back has so ended and begun again (R63, R174). -/
def Ev.react (e : Ev) : Ev := e.settle.handConditions.pumpChassis.settle.record

end Sys2Proof.Machine
end

