-- ==== Sys2Proof/Machine/LinkOps.lean ====
section
/-! DEFINITION. The shared operations of the link and relay unit (chapter 8): discarding, addressing and delivering a frame, the change of
position, and the ends of what a position change and CANCEL reach. -/

namespace Sys2Proof.Machine

/-- R160, R164, R171: a tow-link frame is discarded and counted. -/
def Ev.discardTow (e : Ev) : Ev := e.setLru { e.lru with towDiscards := satAdd 65535 e.lru.towDiscards 1 }

/-- R160, R171: a rear-link frame is discarded and counted. -/
def Ev.discardRear (e : Ev) : Ev := e.setLru { e.lru with rearDiscards := satAdd 65535 e.lru.rearDiscards 1 }

/-! ## Addressing (8.4) -/

/-- R164: the handling of a target position at a position. -/
inductive Handling where
  | take
  | takeAndPass
  | pass
  | discard
  deriving DecidableEq, Repr

/-- R164: the table of target against position. -/
def handling (position target : Nat) : Handling :=
  if target = 15 then (if position = 0 then .take else .takeAndPass)
  else if 1 ≤ position ∧ target = position then .take
  else if 1 ≤ position ∧ position < target ∧ target ≤ 4 then .pass
  else .discard

/-- R164: whether a handling takes the frame. -/
def Handling.takes : Handling → Bool
  | .take => true
  | .takeAndPass => true
  | .pass => false
  | .discard => false

/-- R164: the queueing or discarding of a frame by its handling. -/
def Ev.relay (e : Ev) (h : Handling) (frame : CanFrame) : Ev :=
  match h with
  | .take => e
  | .takeAndPass => e.queueRear frame
  | .pass => e.queueRear frame
  | .discard => e.discardTow

/-- R164, R165, R172: an addressed frame arrives on the tow link; if it is taken, `body` decides it, or NOT_READY during restore. The rearward copy
of a broadcast is queued, or dropped and counted, before the frame is decided, so that the decision reads the overflow count and
RELAY_OVERFLOW as they then stand: R164 has both in one event and gives them no order, and this one is the model's choice
(notes/assumptions/46.md). -/
def deliver (target : Nat) (frame : CanFrame) (tag : Tag) (body : Ev → Ev) (s : State) : Outcome :=
  if s.apu.power = .run then
    let h := handling s.lru.position target
    let e := (Ev.start s).relay h frame
    (if h.takes then (if s.restoring then e.refuse tag .notReady else body e) else e).conclude
  else .next s

/-- A REQUEST frame of a code arrives on the tow link. -/
def deliverRequest (code : Byte) (r : Request) (body : Ev → Ev) (s : State) : Outcome :=
  deliver r.target.toNat (Request.frame code r) r.tag body s

/-! ## Ends (8.3, 8.7) -/

/-- R148, R150, R169: a held insert ends with CANCELLED and its slot is emptied. -/
def Ev.cancelInsert (e : Ev) : Ev :=
  match e.tbu.heldInsert with
  | some tag =>
    ((e.setTbu { e.tbu with heldInsert := none }).setLru { e.lru with slotInsert := none }).result tag .cancelled
  | none => e

/-- R162: everything that a change of the position ends, in its order. -/
def Ev.cancelAll (e : Ev) : Ev :=
  ((((e.endHeldRelease .cancelled).endHeldService .cancelled).cancelInsert).closeLearn .cancelled .noReason).closeHalf .cancelled

/-- R161, R163: the position that a hop count gives; 0 beyond the fourth place. -/
def hopPosition (hop : BitVec 4) : Nat := if hop.toNat < 4 then hop.toNat + 1 else 0

/-- R161, R162, R163: a DEMAND frame sets the position and COMBINATION_TOO_LONG. -/
def Ev.setPosition (e : Ev) (hop : BitVec 4) : Ev :=
  let e1 := e.setLru { e.lru with position := hopPosition hop, tooLong := decide (4 ≤ hop.toNat) }
  if hopPosition hop = e.lru.position then e1 else e1.cancelAll

/-- R161: a copy of a DEMAND frame goes to the demand slot while the hop count is 3 or less. -/
def Ev.copyDemand (e : Ev) (pressure : BitVec 16) (hop seq : BitVec 4) (speed : BitVec 16) : Ev :=
  if hop.toNat < 4 then (e.setLru { e.lru with demandSlot := some (demandCopy pressure hop seq speed) }).pumpRear else e

/-- R172: entry into STANDBY empties the demand slot and both queues. -/
def Ev.lruStandby (e : Ev) : Ev := e.setLru { e.lru with demandSlot := none, rearQueue := [], forwardQueue := [] }

end Sys2Proof.Machine
end

