-- ==== Sys2Proof/Machine/Air.lean ====
section
/-! DEFINITION. The commands of the air supply supervisor (chapter 1): air samples, demands, valve replies, its timers, PARK_APPLY and
PARK_RELEASE. -/

namespace Sys2Proof.Machine

/-- 5.5, R1: the pressures of an AIR_SAMPLE, clamped. -/
def airSampleOf (supply reservoir control : BitVec 16) : AirSample :=
  { supply := clampTo 1000 supply, reservoir := clampTo 1000 reservoir, control := clampTo 1000 control }

/-- R1, R24: a good air sample is taken; during restore the air sample timer is not started. -/
def Ev.takeAir (e : Ev) (x : AirSample) : Ev :=
  let e1 := e.setAsv { e.asv with
    lastAir := some x, airLost := false, airTimer := if e.restoring then e.asv.airTimer else e.timer airSampleMs }
  ((e1.formDemand.testSupply x).formDemand).testHeldRelease

/-- AIR_SAMPLE (R1, R2): taken in RUN (R22; notes/assumptions/21.md). -/
def execAirSample (supply reservoir control : BitVec 16) (status : Byte) (s : State) : Outcome :=
  if s.apu.power = .run ∧ status = 0 then (((Ev.start s).takeAir (airSampleOf supply reservoir control)).react).conclude else .next s

/-- AIR_SAMPLE_TIMER_EXPIRY (R2). -/
def execAirSampleTimerExpiry (s : State) : Outcome :=
  match s.asv.airTimer with
  | some _ =>
    let e := (Ev.start s).setAsv { s.asv with airTimer := none, airLost := true, lastAir := none }
    (e.formDemand.react).conclude
  | none => .next s

/-- R161, R3: a DEMAND frame on the tow link. -/
def demandFrame (pressure : BitVec 16) (hop seq : BitVec 4) (speed : BitVec 16) (s : State) : Outcome :=
  if s.apu.power = .run then
    (((((Ev.start s).setPosition hop).copyDemand pressure hop seq speed).takeDemand pressure seq speed).react).conclude
  else .next s

/-- DEMAND (R161, R162, R163, R3, R4, R172). -/
def execDemand (pressure : BitVec 16) (hop seq : BitVec 4) (speed : BitVec 16) (s : State) : Outcome := demandFrame pressure hop seq speed s

/-- R5: the supervisor after the link timer expires. -/
def Asv.linkExpired (a : Asv) : Asv :=
  match a.link with
  | .linked =>
    { a with link := .unlinked, linkLost := true, goodRun := 0, lastSeq := none, lastDemand := none, towSpeed := none, linkTimer := none }
  | .unlinked => { a with goodRun := 0, lastSeq := none, linkTimer := none }

/-- LINK_TIMER_EXPIRY (R5). -/
def execLinkTimerExpiry (s : State) : Outcome :=
  match s.asv.linkTimer with
  | some _ => ((((Ev.start s).setAsv s.asv.linkExpired).formDemand).react).conclude
  | none => .next s

/-- 11.4, R197: what a VALVE_REPLY reports. -/
inductive ValveReport where
  | applied
  | released
  | moving
  | fault
  deriving DecidableEq, Repr

/-- R197: a position byte other than 1 to 4 is taken as FAULT. -/
def ValveReport.of (position : Byte) : ValveReport :=
  if position = 1 then .applied else if position = 2 then .released else if position = 3 then .moving else .fault

/-- R15: the table of operation kind against reply. Each MOVING reply has its own QUERY, due 50 ms after it. -/
def Ev.takeValve (e : Ev) (op : ValveOp) (report : ValveReport) : Ev :=
  match report, op.kind with
  | .applied, .query => e.completeValve op true
  | .released, .query => e.completeValve op false
  | .applied, .apply => e.completeValve op true
  | .released, .release => e.completeValve op false
  | .released, .apply => e
  | .applied, .release => e
  | .moving, _ => e.setAsv { e.asv with valveOp := some { op with phase := .polling, polls := op.polls ++ (e.timer pollMs).toList } }
  | .fault, _ => e.failValve op

/-- VALVE_REPLY (R15, R8, R16): taken in RUN from node 31 against an operation that has been sent. -/
def execValveReply (node : BitVec 5) (position : Byte) (s : State) : Outcome :=
  match s.asv.valveOp with
  | some op =>
    if s.apu.power = .run ∧ node = 31 ∧ op.phase ≠ .pending then
      (((Ev.start s).takeValve op (ValveReport.of position)).react).conclude
    else .next s
  | none => .next s

/-- VALVE_POLL_DUE (R15): 50 ms after a MOVING reply a QUERY command is raised; of several that are still to come the earliest is the one that
is due (notes/assumptions/36.md). -/
def execValvePollDue (s : State) : Outcome :=
  match s.asv.valveOp with
  | some op =>
    match op.polls with
    | _ :: rest =>
      let e := (Ev.start s).setAsv { s.asv with valveOp := some { op with polls := rest } }
      ((e.setWcu { e.wcu with pendingValve := some .query }).react).conclude
    | [] => .next s
  | none => .next s

/-- VALVE_TIMER_EXPIRY (R16). -/
def execValveTimerExpiry (s : State) : Outcome :=
  match s.asv.valveOp with
  | some op => if op.valveTimer.isSome then (((Ev.start s).failValve op).react).conclude else .next s
  | none => .next s

/-- AUTO_PARK_TIMER_EXPIRY (R17): an APPLY without a requester is started. -/
def execAutoParkTimerExpiry (s : State) : Outcome :=
  match s.asv.autoParkTimer with
  | some _ => ((((Ev.start s).setAsv { s.asv with autoParkTimer := none }).startValve .apply none true).react).conclude
  | none => .next s

/-- RELEASE_HOLD_TIMER_EXPIRY (R20). -/
def execReleaseHoldTimerExpiry (s : State) : Outcome := ((Ev.start s).endHeldRelease .timeout).conclude

/-- R18 step 5: a RELEASE operation in progress is abandoned with CANCELLED; a QUERY without an answer. -/
def Ev.abandonValve (e : Ev) : Ev :=
  match e.asv.valveOp with
  | some op => (e.setAsv { e.asv with valveOp := none }).complete op.requester .cancelled
  | none => e

/-- R18 steps 3 to 5: PARK_APPLY of a stationary trailer that is not PARKED. -/
def Ev.applyPark (e : Ev) (tag : Tag) : Ev :=
  if e.applying then
    match e.asv.valveOp with
    | some op =>
      if op.requester.isSome then e.refuse tag .busy
      else (e.setAsv { e.asv with valveOp := some { op with requester := some tag } }).result tag .accepted
    | none => e
  else ((((e.endHeldRelease .cancelled).abandonValve).startValve .apply (some tag) false).react).result tag .accepted

/-- R18: PARK_APPLY is decided. -/
def Ev.parkApply (e : Ev) (tag : Tag) : Ev :=
  if !e.stationary then e.refuse tag .moving
  else if e.asv.supply = .parked then (e.endHeldRelease .cancelled).result tag .done
  else e.applyPark tag

/-- PARK_APPLY (R18). -/
def execParkApply (r : Request) (s : State) : Outcome := deliverRequest 2 r (fun e => e.parkApply r.tag) s

/-- R19 step 2: a RELEASE operation is in progress. -/
def State.releasing (s : State) : Bool :=
  match s.asv.valveOp with
  | some op => op.kind = .release
  | none => false

/-- R20, R169: a release is held. -/
def Ev.holdRelease (e : Ev) (tag : Tag) : Ev :=
  let h : HeldRelease := { tag := tag, timer := e.timer (e.supplyTable.releaseHold * 1000) }
  ((e.setAsv { e.asv with heldRelease := some h }).setLru { e.lru with slotRelease := some tag }).result tag .held

/-- R19: PARK_RELEASE is decided. -/
def Ev.parkRelease (e : Ev) (tag : Tag) (hold : Bool) : Ev :=
  if e.asv.supply != .parked then e.result tag .done
  else if e.releasing || e.asv.heldRelease.isSome then e.refuse tag .busy
  else if e.releaseConditions then ((e.startValve .release (some tag) false).react).result tag .accepted
  else if hold then e.holdRelease tag
  else e.refuse tag .lowReservoir

/-- PARK_RELEASE (R19, R20). -/
def execParkRelease (r : Request) (s : State) : Outcome := deliverRequest 3 r (fun e => e.parkRelease r.tag r.hold) s

end Sys2Proof.Machine
end

