-- ==== Sys2Proof/Machine/Alerts.lean ====
section
/-! DEFINITION. The requests and the STATUS frame of the alert and power unit (chapter 9): IDENTIFY, NEXT_ALERT, ACK_ALERT, RESET, CLEAR_CAUSE,
STATUS_TIMER_EXPIRY and SECONDS_TICK. -/

namespace Sys2Proof.Machine

/-- R176: the number of pending alerts. -/
def State.pendingCount (s : State) : Nat := ((List.finRange 23).filter fun k => s.isPending k).length

/-- R178: the rank of the highest-ranked pending alert, 0 when none is pending. -/
def State.highestPending (s : State) : Nat :=
  match (List.finRange 23).find? fun k => s.isPending k with
  | some k => k.val + 1
  | none => 0

/-- R104: the intervening flag. -/
def State.intervening (s : State) : Bool :=
  (s.rou.state = .intervene || s.rou.state = .holdoff) && !s.tbu.active.roll.shadow

/-- R178, 11.2: the STATUS frame. -/
def State.statusFrame (s : State) : CanFrame :=
  { id := linkId 10 s.lru.position,
    data := packBytes
      ([BitVec.ofNat 8
          (s.asv.supply.code * 32 + s.asv.link.bit * 16 + bit s.intervening * 8 + bit s.apu.lamp * 4 + bit s.apu.configured * 2),
        BitVec.ofNat 8 s.rou.state.code] ++
        be16Opt s.asv.dEff ++ be16 s.lap.totalLoad ++ [BitVec.ofNat 8 s.highestPending, BitVec.ofNat 8 s.pendingCount]) }

/-- STATUS_TIMER_EXPIRY (R178): a STATUS frame is queued forward and the timer is restarted. -/
def execStatusTimerExpiry (s : State) : Outcome :=
  match s.apu.statusTimer with
  | some _ =>
    (((Ev.start s).setApu { s.apu with statusTimer := s.timer statusMs }).queueForward [{ frame := s.statusFrame }]).conclude
  | none => .next s

/-- SECONDS_TICK (R184): the seconds since reset rise by one and stop at 4,294,967,295. -/
def execSecondsTick (s : State) : Outcome :=
  ((Ev.start s).setApu { s.apu with seconds := satAdd 4294967295 s.apu.seconds 1 }).conclude

/-! ## IDENTIFY (R187, 11.3) -/

/-- The tag in a held-request slot, or a free byte (notes/assumptions/3.md). -/
def slotTag (t : Option Tag) (free : Byte) : Byte := t.getD free

/-- R187: the data of IDENTIFY before the slots' tags. -/
def State.identityHead (s : State) : List Byte :=
  [23, 64, Config.designRevision, BitVec.ofNat 8 s.lru.position, BitVec.ofNat 8 (s.apu.power.code * 64 + bit s.apu.configured)] ++
    be32 s.apu.seconds ++
    [s.apu.cause.byte,
      BitVec.ofNat 8 (bit s.lru.slotRelease.isSome * 4 + bit s.lru.slotInsert.isSome * 2 + bit s.lru.slotService.isSome)]

/-- R187, R171: the data of IDENTIFY after the slots' tags. -/
def State.identityTail (s : State) : List Byte :=
  be16 s.lru.towDiscards ++ be16 s.lru.rearDiscards ++ be16 s.lru.rearOverflows ++ be16 s.lru.forwardOverflows ++ be16 s.rst.drops

/-- R187: the data of IDENTIFY. -/
def State.identity (s : State) : List Byte :=
  let free (place : Nat) : Byte := Config.freeByte place (s.identityHead ++ s.identityTail)
  s.identityHead ++ [slotTag s.lru.slotRelease (free 0), slotTag s.lru.slotInsert (free 1), slotTag s.lru.slotService (free 2)] ++
    s.identityTail

/-- R187: IDENTIFY is decided; it changes nothing. -/
def Ev.identify (e : Ev) (tag : Tag) : Ev := e.answer { tag := tag, result := .done, data := e.identity }

/-- IDENTIFY (R187). -/
def execIdentify (r : Request) (s : State) : Outcome := deliverRequest 1 r (fun e => e.identify r.tag) s

/-! ## NEXT_ALERT and ACK_ALERT -/

/-- R179: the highest-ranked alert that is pending and not acknowledged. -/
def State.nextAlert (s : State) : Option (Fin 23) := (List.finRange 23).find? fun k => s.isPending k && !s.apu.alerts[k].ack

/-- R179, 11.3: NEXT_ALERT is decided. -/
def Ev.reportNext (e : Ev) (tag : Tag) : Ev :=
  match e.nextAlert with
  | some k =>
    e.answer
      { tag := tag, result := .done,
        data := [BitVec.ofNat 8 (k.val + 1), if isEventAlert k then 1 else 0, if e.tbu.active.alert[k].urgent then 1 else 0,
          BitVec.ofNat 8 e.pendingCount] }
  | none => e.answer { tag := tag, result := .none, data := [BitVec.ofNat 8 e.pendingCount] }

/-- NEXT_ALERT (R179). -/
def execNextAlert (r : Request) (s : State) : Outcome := deliverRequest 16 r (fun e => e.reportNext r.tag) s

/-- R175: the kind that a rank names. -/
def kindOfRank (n : Nat) : Option (Fin 23) := if h : 1 ≤ n ∧ n ≤ 23 then some ⟨n - 1, by omega⟩ else none

/-- R175: an alert whose flag is set is acknowledged. -/
def Ev.acknowledge (e : Ev) (k : Fin 23) : Ev :=
  if isEventAlert k then e.clearAlert k
  else (e.setApu { e.apu with alerts := modifyAt e.apu.alerts k fun a => { a with ack := true } }).reformLamp

/-- R175: ACK_ALERT is decided. -/
def Ev.ackAlert (e : Ev) (tag : Tag) (rank : Nat) : Ev :=
  match kindOfRank rank with
  | none => e.refuse tag .badArgument
  | some k => if e.apu.alerts[k].flag then (e.acknowledge k).result tag .done else e.refuse tag .noSuchEntry

/-- ACK_ALERT (R175). -/
def execAckAlert (r : Request) (s : State) : Outcome := deliverRequest 17 r (fun e => e.ackAlert r.tag (r.arg 0)) s

/-! ## RESET and CLEAR_CAUSE -/

/-- R186: the commanded reset takes place in this event. -/
def Ev.resetHere (e : Ev) : Ev := { e with resetNow := true }

/-- R186 step 4: RESET is accepted; the reset takes place at once when its DONE is dropped by a full forward queue. -/
def Ev.acceptReset (e : Ev) (tag : Tag) : Ev :=
  let e1 := (e.setApu { e.apu with resetPending := true }).answer { tag := tag, result := .done, resetDone := true }
  if e.lru.forwardQueue.length < forwardCapacity then e1 else e1.resetHere

/-- R186: RESET is decided. -/
def Ev.requestReset (e : Ev) (tag : Tag) : Ev :=
  if e.apu.resetPending then e.refuse tag .busy
  else if !e.stationary then e.refuse tag .moving
  else if e.asv.supply != .parked && e.asv.supply != .undetermined then e.refuse tag .notParked
  else e.acceptReset tag

/-- RESET (R186). -/
def execReset (r : Request) (s : State) : Outcome := deliverRequest 21 r (fun e => e.requestReset r.tag) s

/-- R184: CLEAR_CAUSE is decided. -/
def Ev.clearCause (e : Ev) (tag : Tag) : Ev := (e.setApu { e.apu with cause := {} }).result tag .done

/-- CLEAR_CAUSE (R184). -/
def execClearCause (r : Request) (s : State) : Outcome := deliverRequest 22 r (fun e => e.clearCause r.tag) s

end Sys2Proof.Machine
end

