-- ==== Sys2Proof/Machine/Channels.lean ====
section
/-! DEFINITION. The commands of the wheel-end channel unit (chapter 3): the chassis bus transmitter, refresh timers, modulator replies,
UNMASK_CHANNEL, READ_CHANNEL, the trains' phase timers and SERVICE_ACTUATE. -/

namespace Sys2Proof.Machine

/-- R57: the chassis bus transmitter has finished with its frame, sent or abandoned, and becomes free. -/
def chassisTxFree (s : State) : Outcome :=
  match s.wcu.tx with
  | some _ => (((Ev.start s).setWcu { s.wcu with tx := none }).react).conclude
  | none => .next s

/-- CHASSIS_TX_DONE (R57). -/
def execChassisTxDone (s : State) : Outcome := chassisTxFree s

/-- CHASSIS_TX_ABANDON (R57): an abandoned frame counts as sent. -/
def execChassisTxAbandon (s : State) : Outcome := chassisTxFree s

/-- R56: a channel after its refresh timer expires. -/
def Channel.refresh (ch : Channel) (usable : Bool) : Channel := { ch with refreshTimer := none, request := ch.request || usable }

/-- REFRESH_TIMER_EXPIRY (R56). -/
def execRefreshTimerExpiry (channel : Fin 6) (s : State) : Outcome :=
  match s.wcu.channels[channel].refreshTimer with
  | some _ =>
    (((Ev.start s).setChannel channel fun ch => ch.refresh (s.channelUsable channel && !s.wcu.suspended)).react).conclude
  | none => .next s

/-- R59: the present, unmasked channel of a node (the first, should two share a node, the model's choice: DESIGN CHOICE,
notes/assumptions/24.md). -/
def State.channelOfNode (s : State) (node : BitVec 5) : Option (Fin 6) :=
  (List.finRange 6).find? fun c => s.channelUsable c && (s.channelEntry c).node = node.toNat

/-- R59, 5.5: a reply as it is stored. -/
def replyOf (pressure speed : BitVec 16) (fault : Byte) : LastReply :=
  { pressure := clampTo 1000 pressure, speed := clampTo 1500 speed, fault := fault }

/-- R59, R60: a reply is stored, and masks its channel or goes to the reference speed and the lift test. -/
def Ev.takeReply (e : Ev) (c : Fin 6) (x : LastReply) : Ev :=
  let e1 := e.setChannel c fun ch => { ch with lastReply := some x, missCount := 0, awaiting := false }
  if x.fault = 0 then (e1.formSpeed).testLift c x.speed else e1.maskChannel c .fault

/-- MOD_REPLY (R59, R60, R88). -/
def execModReply (node : BitVec 5) (pressure speed : BitVec 16) (fault : Byte) (s : State) : Outcome :=
  match s.channelOfNode node with
  | some c =>
    if s.wcu.suspended then .next s else (((Ev.start s).takeReply c (replyOf pressure speed fault)).react).conclude
  | none => .next s

/-- R64, R65: the channel that a request names. -/
def channelArg (n : Nat) : Option (Fin 6) := if h : 1 ≤ n ∧ n ≤ 6 then some ⟨n - 1, by omega⟩ else none

/-- R64: a channel's record after UNMASK_CHANNEL. -/
def Channel.unmask (ch : Channel) (suspended : Bool) : Channel :=
  match ch.mask with
  | some _ => { ch with mask := none, missCount := 0, awaiting := false, request := ch.request || !suspended }
  | none => { ch with missCount := 0 }

/-- R64: UNMASK_CHANNEL is decided. -/
def Ev.unmaskChannel (e : Ev) (tag : Tag) (n : Nat) : Ev :=
  match channelArg n with
  | none => e.refuse tag .badArgument
  | some c =>
    if (e.channelEntry c).present then ((e.setChannel c fun ch => ch.unmask e.wcu.suspended).react).result tag .done
    else e.refuse tag .noSuchEntry

/-- UNMASK_CHANNEL (R64). -/
def execUnmaskChannel (r : Request) (s : State) : Outcome := deliverRequest 14 r (fun e => e.unmaskChannel r.tag (r.arg 0)) s

/-- R65, 11.3: the train byte and the current count shown for a channel. -/
def State.trainShown (s : State) (c : Fin 6) : List Byte :=
  let shown (t : PulseTrain) : Bool := t.isRunning && t.targets[c]
  if shown s.wcu.trainA then [BitVec.ofNat 8 s.wcu.trainA.phase.code, BitVec.ofNat 8 s.wcu.trainA.count]
  else if shown s.wcu.trainB then [BitVec.ofNat 8 (128 + s.wcu.trainB.phase.code), BitVec.ofNat 8 s.wcu.trainB.count]
  else [0, 0]

/-- 11.3: the mask code. -/
def maskCode : Option MaskCause → Byte
  | none => 0
  | some .lost => 1
  | some .fault => 2

/-- 11.3: present, side and axle set in one byte. -/
def entryByte (x : ChannelEntry) : Byte :=
  BitVec.ofNat 8
    (bit x.present * 128 + x.side.bit * 64 + bit x.axles[0] * 8 + bit x.axles[1] * 4 + bit x.axles[2] * 2 + bit x.axles[3])

/-- R65, R198: the data bytes of READ_CHANNEL after the first two, for a record and the train bytes. -/
def channelData (ch : Channel) (faultCode : Byte) (train : List Byte) : List Byte :=
  be16Opt ch.command ++ be16 ch.lastSent ++ [maskCode ch.mask, BitVec.ofNat 8 ch.missCount] ++
    be16Opt (ch.lastReply.map (·.pressure)) ++ be16Opt (ch.lastReply.map (·.speed)) ++
    [(ch.lastReply.map (·.fault)).getD faultCode] ++ train

/-- R65: the data bytes of READ_CHANNEL. Those to which the spec gives no value are free: the fault code of an absent last reply, and the
node, side and axle set of a channel that is not present (notes/assumptions/3.md). -/
def State.channelAnswer (s : State) (c : Fin 6) : List Byte :=
  let free (place : Nat) (stated : List Byte) : Byte := Config.freeByte (3 * (c.val + 1) + place) stated
  if (s.channelEntry c).present then
    let entry := [entryByte (s.channelEntry c), BitVec.ofNat 8 (s.channelEntry c).node]
    let record (faultCode : Byte) : List Byte := channelData s.wcu.channels[c] faultCode (s.trainShown c)
    entry ++ record (free 0 (entry ++ record 0))
  else
    let record (faultCode : Byte) : List Byte := channelData {} faultCode [0, 0]
    [free 1 (record 0) &&& 79, free 2 (record 0)] ++ record (free 0 (record 0))

/-- R65: READ_CHANNEL is decided; it changes nothing. -/
def Ev.readChannel (e : Ev) (tag : Tag) (n : Nat) : Ev :=
  match channelArg n with
  | none => e.refuse tag .badArgument
  | some c => e.answer { tag := tag, result := .done, data := e.channelAnswer c }

/-- READ_CHANNEL (R65). -/
def execReadChannel (r : Request) (s : State) : Outcome := deliverRequest 13 r (fun e => e.readChannel r.tag (r.arg 0)) s

/-- R74: train B has reached its terminal count. -/
def Ev.serviceEnded (e : Ev) : Ev :=
  match e.wcu.service with
  | .running tag _ => (e.setWcu { e.wcu with service := .none }).result tag .done
  | _ => e

/-- R70: the owner of a train is told of its terminal count. -/
def Ev.trainEnded (e : Ev) : Train → Ev
  | .a => e.probeEnded
  | .b => e.serviceEnded

/-- PHASE_TIMER_EXPIRY (R70, R74, R89). -/
def execPhaseTimerExpiry (train : Train) (s : State) : Outcome :=
  match (s.wcu.train train).timer with
  | some _ =>
    let t := (s.wcu.train train).expire (s.timer (s.wcu.train train).pulse)
    let e := (Ev.start s).setWcu (s.wcu.withTrain train t.1)
    ((if t.2 then e.trainEnded train else e).react).conclude
  | none => .next s

/-- 11.2, 3.8: the arguments of SERVICE_ACTUATE, `none` when one lies outside its range. -/
def serviceArgs (r : Request) : Option ServiceArgs :=
  let count := r.arg16 1 / 4096
  let pressure := r.arg16 1 % 1024
  let pulse := r.arg16 3
  match channelArg (r.arg 0) with
  | some c =>
    if 1 ≤ count ∧ count ≤ 8 ∧ 1 ≤ pressure ∧ pressure ≤ 1000 ∧ 50 ≤ pulse ∧ pulse ≤ 1000 then
      some { channel := c, pressure := pressure, count := count, pulse := pulse }
    else none
  | none => none

/-- R73, R169: a service actuation is held. -/
def Ev.holdService (e : Ev) (tag : Tag) (a : ServiceArgs) : Ev :=
  ((e.setWcu { e.wcu with service := .held tag a (e.timer serviceHoldMs) }).setLru { e.lru with slotService := some tag }).result tag
    .held

/-- R72: SERVICE_ACTUATE is decided. -/
def Ev.serviceActuate (e : Ev) (tag : Tag) (hold : Bool) (args : Option ServiceArgs) : Ev :=
  match args with
  | none => e.refuse tag .badArgument
  | some a =>
    if e.wcu.service != .none then e.refuse tag .busy
    else
      match e.serviceReason a.channel with
      | none => ((e.startService tag a).result tag .accepted).react
      | some reason => if hold then e.holdService tag a else e.refuse tag reason

/-- SERVICE_ACTUATE (R72, R73). -/
def execServiceActuate (r : Request) (s : State) : Outcome :=
  deliverRequest 15 r (fun e => e.serviceActuate r.tag r.hold (serviceArgs r)) s

/-- SERVICE_HOLD_TIMER_EXPIRY (R73). -/
def execServiceHoldTimerExpiry (s : State) : Outcome := ((Ev.start s).endHeldService .timeout).conclude

end Sys2Proof.Machine
end

