-- ==== Sys2Proof/Machine/Tyres.lean ====
section
/-! DEFINITION. The commands of the tyre watch (chapter 5): telegrams, repeat windows, missing timers and READ_TYRE. -/

namespace Sys2Proof.Machine

/-- R108: telegrams are taken after restore has ended, in RUN or STANDBY. -/
def State.takesTelegrams (s : State) : Bool := !s.restoring && s.apu.power != .sleep

/-- TYRE_TELEGRAM (R108 to R117, R123, R133, R134). -/
def execTyreTelegram (ident : BitVec 32) (pressure : BitVec 16) (temperature flags : Byte) (s : State) : Outcome :=
  if s.takesTelegrams then (((Ev.start s).takeTelegram (Telegram.of ident pressure temperature flags)).react).conclude else .next s

/-- REPEAT_WINDOW_END (R110). -/
def execRepeatWindowEnd (entry : Fin 20) (s : State) : Outcome :=
  ((Ev.start s).setReading entry fun r => { r with repeatWindow := none }).conclude

/-- The missing timer of an entry. -/
def State.missingTimer (s : State) (entry : Fin 20) : Timer :=
  match s.twu.entries[entry] with
  | some b => b.reading.missingTimer
  | none => none

/-- MISSING_TIMER_EXPIRY (R120, R117). -/
def execMissingTimerExpiry (entry : Fin 20) (s : State) : Outcome :=
  match s.missingTimer entry with
  | some _ => (((Ev.start s).setReading entry Reading.miss).react).conclude
  | none => .next s

/-! ## READ_TYRE (R126, 11.3, R198) -/

/-- R198: the seconds left on a timer, 65,535 when it is stopped. -/
def secondsBytes (clock : Nat) (t : Timer) : List Byte := be16Opt (t.map (secondsLeft clock))

/-- R198: a temperature byte, offset by 40 as in TYRE_TELEGRAM; 255 when absent (notes/assumptions/34.md). -/
def temperatureByte (t : Option Int) : Byte :=
  match t with
  | some x => BitVec.ofNat 8 (x + 40).toNat
  | none => 255

/-- 11.3: the flags byte of READ_TYRE. -/
def readingFlags (r : Reading) (counts : Bool) : Byte :=
  BitVec.ofNat 8 (bit r.hot * 16 + bit r.battery * 8 + bit r.stale * 4 + bit r.deflMissing * 2 + bit counts)

/-- R126: the data of READ_TYRE for the entry of a binding. A last adj below 0, which only a TYRE table restored from a damaged record
brings about, is sent as 0, the model's choice (notes/assumptions/43.md). -/
def State.tyreData (s : State) (i : Fin 20) (b : Bound) : List Byte :=
  BitVec.ofNat 8 (i.val + 1) :: be32 b.ident.toNat ++ [BitVec.ofNat 8 (bit (s.evaluated b) * 128 + b.reading.level.code)] ++
    be16Opt b.reading.pressure ++ [temperatureByte b.reading.temperature, (b.reading.count.map fun c => BitVec.ofNat 8 c.toNat).getD 255] ++
    be16Opt (b.reading.adj.map Int.toNat) ++ [readingFlags b.reading (s.countsDeflated b)] ++ secondsBytes s.clock b.reading.missingTimer

/-- R126: the summary data of READ_TYRE. -/
def State.tyreSummary (s : State) : List Byte :=
  be16 s.twu.foreign ++ be16 s.twu.repeats ++ be16 s.twu.invalid ++
    [BitVec.ofNat 8 s.twu.deflated, BitVec.ofNat 8 s.evaluatedEntries.length]

/-- R126: READ_TYRE is decided. -/
def Ev.readTyre (e : Ev) (tag : Tag) (n : Nat) : Ev :=
  if n = 0 then e.answer { tag := tag, result := .done, data := e.tyreSummary }
  else
    match Binding.ofCode n with
    | none => e.refuse tag .badArgument
    | some binding =>
      match e.entryAt binding with
      | none => e.refuse tag .noSuchEntry
      | some i =>
        match e.twu.entries[i] with
        | some b => e.answer { tag := tag, result := .done, data := e.tyreData i b }
        | none => e

/-- READ_TYRE (R126). -/
def execReadTyre (r : Request) (s : State) : Outcome := deliverRequest 12 r (fun e => e.readTyre r.tag (r.arg 0)) s

end Sys2Proof.Machine
end

