-- ==== Sys2Proof/Machine/Registry.lean ====
section
/-! DEFINITION. The commands of the tyre sensor registry (chapter 6): LEARN, ASSIGN, REMOVE, EXCHANGE, READ_REGISTRY and their timers. -/

namespace Sys2Proof.Machine

/-- A binding argument that names a binding the active AXLE table allows (R132, R136, R138, R139). -/
def State.bindingArg (s : State) (n : Nat) : Option Binding :=
  match Binding.ofCode n with
  | some b => if s.validBinding b then some b else none
  | none => none

/-- R132: the learn time in s, `none` when out of range. -/
def learnTime (n : Nat) : Option Nat := if n = 0 then some 120 else if 10 ≤ n ∧ n ≤ 600 then some n else none

/-- R132: LEARN is decided; an open exchange half ends first. -/
def Ev.learn (e : Ev) (tag : Tag) (code time : Nat) : Ev :=
  let e1 := e.closeHalf .cancelled
  match e1.bindingArg code, learnTime time with
  | some b, some t =>
    if e1.twu.learn.isSome then e1.refuse tag .busy
    else
      let w : LearnWindow := { binding := b, tag := tag, timer := e1.timer (t * 1000), answered := [] }
      (e1.setTwu { e1.twu with learn := some w }).result tag .accepted
  | _, _ => e1.refuse tag .badArgument

/-- LEARN (R132). -/
def execLearn (r : Request) (s : State) : Outcome := deliverRequest 7 r (fun e => e.learn r.tag (r.arg 0) (r.arg16 1)) s

/-- LEARN_TIMER_EXPIRY (R135). -/
def execLearnTimerExpiry (s : State) : Outcome := ((Ev.start s).closeLearn .timeout .noReason).conclude

/-- R136 steps 3 to 6: ASSIGN of a valid binding and identifier. -/
def Ev.assignTo (e : Ev) (tag : Tag) (b : Binding) (ident : BitVec 32) : Ev :=
  match e.holderOf ident with
  | some j => if e.entryAt b = some j then e.result tag .done else e.refuse tag .duplicate
  | none =>
    match e.bindTarget b with
    | none => e
    | some i => if e.roomFor [1] then ((e.bindEntry i ident b).react).result tag .done else e.refuse tag .storeFull

/-- R136: ASSIGN is decided; an open exchange half ends first. -/
def Ev.assign (e : Ev) (tag : Tag) (code : Nat) (ident : BitVec 32) : Ev :=
  let e1 := e.closeHalf .cancelled
  match e1.bindingArg code with
  | some b => if validIdent ident then e1.assignTo tag b ident else e1.refuse tag .badArgument
  | none => e1.refuse tag .badArgument

/-- ASSIGN (R136, R131). -/
def execAssign (r : Request) (s : State) : Outcome := deliverRequest 8 r (fun e => e.assign r.tag (r.arg 0) r.identArg) s

/-- R137: REMOVE is decided; an open exchange half ends first. -/
def Ev.remove (e : Ev) (tag : Tag) (code : Nat) : Ev :=
  let e1 := e.closeHalf .cancelled
  match Binding.ofCode code with
  | none => e1.refuse tag .badArgument
  | some b =>
    match e1.entryAt b with
    | none => e1.refuse tag .noSuchEntry
    | some i => if e1.roomFor [1] then ((e1.changeEntry i none).react).result tag .done else e1.refuse tag .storeFull

/-- REMOVE (R137, R131). -/
def execRemove (r : Request) (s : State) : Outcome := deliverRequest 9 r (fun e => e.remove r.tag (r.arg 0)) s

/-- R138 steps 3 and 4: the exchange half opens. -/
def Ev.openHalf (e : Ev) (tag : Tag) (b : Binding) : Ev :=
  if e.twu.learn.isSome then e.refuse tag .busy
  else
    let h : ExchangeHalf := { binding := b, tag := tag, timer := e.timer exchangeMs }
    (e.setTwu { e.twu with half := some h }).result tag .held

/-- R139: an entry moves, if there is one. -/
def Ev.moveIf (e : Ev) (i : Option (Fin 20)) (b : Binding) : Ev :=
  match i with
  | some i => e.moveEntry i b
  | none => e

/-- R139 steps 3 to 5: the swap of the half's binding with another. -/
def Ev.swapBindings (e : Ev) (tag : Tag) (h : ExchangeHalf) (b : Binding) : Ev :=
  let i := e.entryAt h.binding
  let j := e.entryAt b
  let changes := [i, j].filterMap id
  if changes.isEmpty || e.roomFor (changes.map fun _ => 1) then
    ((((e.moveIf i b).moveIf j h.binding).closeHalf .done).react).result tag .done
  else e.refuse tag .storeFull

/-- R138, R139: EXCHANGE is decided. -/
def Ev.exchange (e : Ev) (tag : Tag) (code : Nat) : Ev :=
  match e.bindingArg code with
  | none => e.refuse tag .badArgument
  | some b =>
    match e.twu.half with
    | none => e.openHalf tag b
    | some h => if b = h.binding then (e.closeHalf .cancelled).result tag .done else e.swapBindings tag h b

/-- EXCHANGE (R138, R139, R131). -/
def execExchange (r : Request) (s : State) : Outcome := deliverRequest 10 r (fun e => e.exchange r.tag (r.arg 0)) s

/-- EXCHANGE_TIMER_EXPIRY (R140). -/
def execExchangeTimerExpiry (s : State) : Outcome := ((Ev.start s).closeHalf .timeout).conclude

/-! ## READ_REGISTRY (R141, 11.3) -/

/-- R141: the data of an entry: 0 empty, 1 evaluated, 2 dormant. -/
def State.entryData (s : State) (x : Option Bound) : List Byte :=
  match x with
  | none => 0 :: be32 0 ++ [0]
  | some b => (if s.evaluated b then 1 else 2) :: be32 b.ident.toNat ++ [bindingByte (some b.binding)]

/-- R141: the summary data. -/
def State.registrySummary (s : State) : List Byte :=
  [BitVec.ofNat 8 s.boundEntries.length, BitVec.ofNat 8 s.evaluatedEntries.length, bindingByte (s.twu.learn.map (·.binding))] ++
    secondsBytes s.clock (s.twu.learn.bind (·.timer)) ++ [bindingByte (s.twu.half.map (·.binding))] ++
    secondsBytes s.clock (s.twu.half.bind (·.timer))

/-- R141: READ_REGISTRY is decided. -/
def Ev.readRegistry (e : Ev) (tag : Tag) (n : Nat) : Ev :=
  if n = 0 then e.answer { tag := tag, result := .done, data := e.registrySummary }
  else if h : n - 1 < 20 then e.answer { tag := tag, result := .done, data := e.entryData (e.twu.entries[n - 1]'h) }
  else e.refuse tag .badArgument

/-- READ_REGISTRY (R141). -/
def execReadRegistry (r : Request) (s : State) : Outcome := deliverRequest 11 r (fun e => e.readRegistry r.tag (r.arg 0)) s

end Sys2Proof.Machine
end

