-- ==== Sys2Proof/Machine/Store.lean ====
section
/-! DEFINITION. The commands of the record store (chapter 10): slot writes, reading records, erase and rebase. -/

namespace Sys2Proof.Machine

/-! ## Writing (R190, R191, R195) -/

/-- R190: the slot of the next step of a write. -/
def WriteJob.slot (j : WriteJob) : Nat :=
  match j.stage with
  | .header => j.start
  | .data i => j.start + i
  | .valid => j.start
  | .supersede n => n

/-- R190: what the next step of a write puts into its slot. -/
def WriteJob.bytes (j : WriteJob) (m : Memory) : SlotBytes :=
  match j.stage with
  | .header => headerSlot j.record stateWriting
  | .data i => dataSlot j.record i
  | .valid => headerSlot j.record stateValid
  | .supersede n => (m.readSlot n).set 3 stateSuperseded

/-- R190 step 5: the predecessor of a TABLE record that has been made VALID. -/
def WriteJob.predecessor (j : WriteJob) (m : Memory) : Option Nat :=
  if j.record.kind = .table then lastTable m j.start j.record.byte4 (j.start + 1) 0 none else none

/-- R195: a rebase is in flight, so that the write in progress is that of a rebase record. -/
def Rst.rebasing (x : Rst) : Bool :=
  match x.erase with
  | some { phase := .rebasing _, .. } => true
  | _ => false

/-- R190, R195: the step after the one that has been written, `none` at the end of the write. A rebase record has no predecessor to supersede, even
where a faulted slot reads back as one (notes/assumptions/49.md). -/
def WriteJob.nextStage (j : WriteJob) (m : Memory) (rebasing : Bool) : Option WriteStage :=
  match j.stage with
  | .header => if 2 ≤ j.record.length then some (.data 1) else some .valid
  | .data i => if i + 1 < j.record.length then some (.data (i + 1)) else some .valid
  | .valid => if rebasing then none else (j.predecessor m).map .supersede
  | .supersede _ => none

/-- R195: the rebase record number `n`: 0 to 6 a table, 7 to 26 a registry entry. -/
def State.rebaseRecord (s : State) (n : Nat) : Option Record :=
  match ([.axle, .load, .channel, .roll, .tyre, .supply, .alert] : List TableId)[n]? with
  | some id => some (tableRecord s.tbu.active id)
  | none =>
    if h : n - 7 < 20 then
      match s.twu.entries[n - 7]'h with
      | some b => some (regRecord ⟨n - 7, h⟩ (some b))
      | none => none
    else none

/-- R195: the first rebase record from number `n` on. -/
def State.nextRebase (s : State) (n : Nat) : Option (Nat × Record) :=
  (List.range 27).findSome? fun i => if n ≤ i then (s.rebaseRecord i).map fun r => (i, r) else none

/-- R195: the next rebase record is begun, or the rebase ends with DONE. -/
def Ev.rebaseFrom (e : Ev) (tag : Tag) (n : Nat) : Ev :=
  match e.nextRebase n with
  | some (i, r) => e.setRst ({ e.rst with erase := some { tag := tag, phase := .rebasing (i + 1) } }.takeSlots r)
  | none => (e.setRst { e.rst with erase := none }).result tag .done

/-- R190, R194, R195: a write has ended; a waiting erase begins, or the rebase goes on. -/
def Ev.writeEnded (e : Ev) : Ev :=
  let e1 := e.setRst { e.rst with writing := none }
  match e.rst.erase with
  | some { tag := tag, phase := .waiting } => e1.setRst { e1.rst with erase := some { tag := tag, phase := .erasing } }
  | some { tag := tag, phase := .rebasing n } => e1.rebaseFrom tag n
  | _ => e1

/-- R191: a slot that does not read back as written; a fault of step 5 leaves the predecessor as it stood (notes/assumptions/11.md). -/
def Ev.writeFault (e : Ev) (j : WriteJob) (readBack : SlotBytes) : Ev :=
  let m := match j.stage with
    | .supersede _ => e.rst.memory
    | _ => e.rst.memory.writeSlot j.slot readBack
  ((e.setRst { e.rst with memory := m }).occur .storeFault).writeEnded

/-- R190: a slot that reads back as written; the write goes on or ends. -/
def Ev.slotWritten (e : Ev) (j : WriteJob) : Ev :=
  let m := e.rst.memory.writeSlot j.slot (j.bytes e.rst.memory)
  let e1 := e.setRst { e.rst with memory := m }
  match j.nextStage m e.rst.rebasing with
  | some st => e1.setRst { e1.rst with writing := some { j with stage := st } }
  | none => e1.writeEnded

/-- R191: whether what a slot reads back as is a write fault. -/
def isFault (written : SlotBytes) (readBack : Option SlotBytes) : Option SlotBytes :=
  match readBack with
  | some b => if b = written then none else some b
  | none => none

/-- RECORD_SLOT_WRITTEN (R190, R191, R194, R195). -/
def execRecordSlotWritten (readBack : Option SlotBytes) (s : State) : Outcome :=
  match s.rst.writing with
  | none => .next s
  | some j =>
    if slotCount ≤ j.slot then .fault .storeAddress
    else
      match isFault (j.bytes s.rst.memory) readBack with
      | some b => (((Ev.start s).writeFault j b).record).conclude
      | none => (((Ev.start s).slotWritten j).record).conclude

/-! ## Reading (R193) -/

/-- R193: the slot at which the search stops: the record in progress, or the write position. -/
def Rst.readBound (x : Rst) : Nat :=
  match x.writing with
  | some j => j.start
  | none => x.writePos

/-- R193, 11.3: the data of a record that is read. -/
def recordData (m : Memory) (n length : Nat) : List Byte :=
  be16 n ++ [m.read (16 * n + 1), BitVec.ofNat 8 length, m.read (16 * n + 4)] ++ dataAt m n length

/-- R193: the search from a slot, its answer and the cursor after it. -/
def Ev.searchFrom (e : Ev) (tag : Tag) (kind : RecordKind) (slot : Nat) : Ev :=
  match findRecord e.rst.memory e.rst.readBound kind (slotCount + 1) slot with
  | some n =>
    (e.setRst { e.rst with cursor := { slot := n, kind := some kind, passed := true } }).answer
      { tag := tag, result := .done, data := recordData e.rst.memory n ((recordAt e.rst.memory e.rst.readBound n).getD 1) }
  | none =>
    (e.setRst { e.rst with cursor := { slot := e.rst.readBound, kind := some kind, passed := false } }).result tag .none

/-- R193: READ_RECORD_FIRST is decided. -/
def Ev.readFirst (e : Ev) (tag : Tag) (kind : Nat) : Ev :=
  match RecordKind.ofCode kind with
  | none => e.refuse tag .badArgument
  | some k => if e.rst.erase.isSome then e.refuse tag .busy else e.searchFrom tag k 0

/-- READ_RECORD_FIRST (R193). -/
def execReadRecordFirst (r : Request) (s : State) : Outcome := deliverRequest 18 r (fun e => e.readFirst r.tag (r.arg 0)) s

/-- R193: where READ_RECORD_NEXT resumes: the slot after a record that has been answered. -/
def Rst.resume (x : Rst) : Nat :=
  if x.cursor.passed then x.cursor.slot + (recordAt x.memory x.readBound x.cursor.slot).getD 1 else x.cursor.slot

/-- R193: READ_RECORD_NEXT is decided. -/
def Ev.readNext (e : Ev) (tag : Tag) : Ev :=
  if e.rst.erase.isSome then e.refuse tag .busy
  else
    match e.rst.cursor.kind with
    | none => e.refuse tag .noSuchEntry
    | some k => e.searchFrom tag k e.rst.resume

/-- READ_RECORD_NEXT (R193). -/
def execReadRecordNext (r : Request) (s : State) : Outcome := deliverRequest 19 r (fun e => e.readNext r.tag) s

/-! ## Erase (R194) -/

/-- R194: ERASE_STORE is decided. Where both refusals apply NOT_PARKED is the reason: R194 gives them no order, and this one is the model's
choice (notes/assumptions/45.md). -/
def Ev.eraseStore (e : Ev) (tag : Tag) : Ev :=
  if e.asv.supply != .parked then e.refuse tag .notParked
  else if e.rst.erase.isSome then e.refuse tag .busy
  else
    (e.setRst { e.rst with erase := some { tag := tag, phase := if e.rst.writing.isSome then .waiting else .erasing } }).result tag
      .accepted

/-- ERASE_STORE (R194). -/
def execEraseStore (r : Request) (s : State) : Outcome := deliverRequest 20 r (fun e => e.eraseStore r.tag) s

/-- ERASE_END (R194, R195): every slot becomes BLANK and the rebase begins. -/
def execEraseEnd (s : State) : Outcome :=
  match s.rst.erase with
  | some { tag := tag, phase := .erasing } =>
    let e := (Ev.start s).setRst { s.rst with memory := [], writePos := 0, cursor := {} }
    ((e.rebaseFrom tag 0).record).conclude
  | _ => .next s

end Sys2Proof.Machine
end

