-- ==== Sys2Proof/Machine/TableCmds.lean ====
section
/-! DEFINITION. The commands of the table unit (chapter 7): TABLE_WRITE, READ_TABLE, DISCARD and INSERT. -/

namespace Sys2Proof.Machine

/-- R146: the table and the layout of the entry that a write or a read names. -/
def namedEntry (table entry : Nat) : Option (TableId × List Field) :=
  match TableId.ofCode table with
  | some id => (entryLayout id entry).map fun fs => (id, fs)
  | none => none

/-- R146: TABLE_WRITE is decided. -/
def Ev.writeTable (e : Ev) (w : TableWriteFrame) : Ev :=
  match namedEntry w.table.toNat w.entry.toNat with
  | none => e.refuse w.tag .noSuchEntry
  | some (id, fs) =>
    let vs := unpackArea fs w.area.toNat
    if inRanges fs vs then
      (e.setTbu { e.tbu with shadow := withEntry e.tbu.shadow id w.entry.toNat vs, differs := true }).result w.tag .done
    else e.refuse w.tag .badArgument

/-- A TABLE_WRITE frame arrives on the tow link. -/
def deliverTableWrite (w : TableWriteFrame) (s : State) : Outcome := deliver w.target.toNat w.frame w.tag (fun e => e.writeTable w) s

/-- TABLE_WRITE (R146, R164, R165). -/
def execTableWrite (w : TableWriteFrame) (s : State) : Outcome := deliverTableWrite w s

/-- R147: the copy that a selector names. -/
def State.copyOf (s : State) : Nat → Option Tables
  | 0 => some s.tbu.active
  | 1 => some s.tbu.shadow
  | _ => none

/-- R147, 11.3: READ_TABLE is decided. Of a copy selector and a table or entry that are both bad the selector is refused: R147 gives the two
refusals no order, and this one is the model's choice (notes/assumptions/44.md). -/
def Ev.readTable (e : Ev) (tag : Tag) (copy table entry : Nat) : Ev :=
  match e.copyOf copy with
  | none => e.refuse tag .badArgument
  | some t =>
    match namedEntry table entry with
    | none => e.refuse tag .noSuchEntry
    | some (id, _) =>
      e.answer
        { tag := tag, result := .done,
          data :=
            [BitVec.ofNat 8 (bit e.tbu.differs * 128 + bit e.tbu.heldInsert.isSome * 64), BitVec.ofNat 8 (table * 32 + entry)] ++
              areaBytes (entryArea t id entry) }

/-- READ_TABLE (R147). -/
def execReadTable (r : Request) (s : State) : Outcome :=
  deliverRequest 4 r (fun e => e.readTable r.tag (r.arg 0) (r.arg 1) (r.arg 2)) s

/-- R148: DISCARD is decided. -/
def Ev.discardShadow (e : Ev) (tag : Tag) : Ev :=
  let e1 := e.cancelInsert
  (e1.setTbu { e1.tbu with shadow := e1.tbu.active, differs := false }).result tag .done

/-- DISCARD (R148). -/
def execDiscard (r : Request) (s : State) : Outcome := deliverRequest 5 r (fun e => e.discardShadow r.tag) s

/-- R149, R169: an insert is held. -/
def Ev.holdInsert (e : Ev) (tag : Tag) : Ev :=
  ((e.setTbu { e.tbu with heldInsert := some tag }).setLru { e.lru with slotInsert := some tag }).result tag .held

/-- R149: INSERT is decided. The DONE of an insertion comes after every completion that the insertion and the closing work of its event bring about
(R167). -/
def Ev.insert (e : Ev) (tag : Tag) (hold : Bool) : Ev :=
  if e.tbu.heldInsert.isSome then e.refuse tag .busy
  else if e.lap.brakeActive then (if hold then e.holdInsert tag else e.refuse tag .braking)
  else
    match e.insertionStop with
    | some (reason, table, entry) => (e.failInsertion tag reason table entry).react
    | none => e.carryOut.react.result tag .done

/-- INSERT (R149, R152 to R156). -/
def execInsert (r : Request) (s : State) : Outcome := deliverRequest 6 r (fun e => e.insert r.tag r.hold) s

end Sys2Proof.Machine
end

