-- ==== Sys2Proof/Machine/Links.lean ====
section
/-! DEFINITION. The commands of the link and relay unit (chapter 8): CANCEL, frames that are discarded, forwarded or refused, and the
transmitters of the tow and rear links. -/

namespace Sys2Proof.Machine

/-! ## CANCEL (R170) -/

/-- R170: what CANCEL names is ended, `none` when there is nothing to end or the kind is none of the five. -/
def Ev.endNamed (e : Ev) (code : Nat) : Option Ev :=
  match code with
  | 3 => if e.asv.heldRelease.isSome then some (e.endHeldRelease .cancelled) else none
  | 6 => if e.tbu.heldInsert.isSome then some e.cancelInsert else none
  | 7 => if e.twu.learn.isSome then some (e.closeLearn .cancelled .noReason) else none
  | 10 => if e.twu.half.isSome then some (e.closeHalf .cancelled) else none
  | 15 => if e.wcu.service != .none then some e.cancelService else none
  | _ => none

/-- R170: CANCEL is decided; its own answer comes after what it brings about (R167). -/
def Ev.cancel (e : Ev) (tag : Tag) (code : Nat) : Ev :=
  if [3, 6, 7, 10, 15].contains code then
    match e.endNamed code with
    | some e1 => e1.react.result tag .done
    | none => e.refuse tag .noSuchEntry
  else e.refuse tag .badArgument

/-- CANCEL (R170). -/
def execCancel (r : Request) (s : State) : Outcome := deliverRequest 23 r (fun e => e.cancel r.tag (r.arg 0)) s

/-! ## Decoding (R165) -/

/-- R165: a REQUEST that has been taken after restore is handed to its owner by its code. -/
def Ev.decide (e : Ev) (code : Byte) (r : Request) : Ev :=
  match code.toNat with
  | 1 => e.identify r.tag
  | 2 => e.parkApply r.tag
  | 3 => e.parkRelease r.tag r.hold
  | 4 => e.readTable r.tag (r.arg 0) (r.arg 1) (r.arg 2)
  | 5 => e.discardShadow r.tag
  | 6 => e.insert r.tag r.hold
  | 7 => e.learn r.tag (r.arg 0) (r.arg16 1)
  | 8 => e.assign r.tag (r.arg 0) r.identArg
  | 9 => e.remove r.tag (r.arg 0)
  | 10 => e.exchange r.tag (r.arg 0)
  | 11 => e.readRegistry r.tag (r.arg 0)
  | 12 => e.readTyre r.tag (r.arg 0)
  | 13 => e.readChannel r.tag (r.arg 0)
  | 14 => e.unmaskChannel r.tag (r.arg 0)
  | 15 => e.serviceActuate r.tag r.hold (serviceArgs r)
  | 16 => e.reportNext r.tag
  | 17 => e.ackAlert r.tag (r.arg 0)
  | 18 => e.readFirst r.tag (r.arg 0)
  | 19 => e.readNext r.tag
  | 20 => e.eraseStore r.tag
  | 21 => e.requestReset r.tag
  | 22 => e.clearCause r.tag
  | 23 => e.cancel r.tag (r.arg 0)
  | _ => e.refuse r.tag .unknownRequest

/-- R164, R165: a REQUEST or TABLE_WRITE frame arrives on the tow link. -/
def deliverRearward (f : RearwardFrame) (s : State) : Outcome :=
  match f with
  | .request code r => deliverRequest code r (fun e => e.decide code r) s
  | .tableWrite w => deliverTableWrite w s

/-- REQUEST_UNKNOWN (R165 step 2; a code of the table acts as its row, notes/assumptions/26.md). -/
def execRequestUnknown (code : Byte) (r : Request) (s : State) : Outcome := deliverRearward (.request code r) s

/-- REQUEST_NOT_READY (R165 step 1; outside restore the frame acts by its bits, notes/assumptions/26.md). -/
def execRequestNotReady (f : RearwardFrame) (s : State) : Outcome := deliverRearward f s

/-- REQUEST_NOT_ADDRESSED (R164; a frame that is addressed to the part acts by its bits, notes/assumptions/26.md). -/
def execRequestNotAddressed (f : RearwardFrame) (s : State) : Outcome := deliverRearward f s

/-! ## Frames as they arrive (R160) -/

/-- R160: a frame on the tow link is discarded and counted. -/
def towDiscarded (s : State) : Outcome := if s.apu.power = .run then ((Ev.start s).discardTow).conclude else .next s

/-- R160: a frame arrives on the tow link. -/
def towFrame (f : RxFrame) (s : State) : Outcome :=
  if f.malformed || f.forwardKind then towDiscarded s
  else if f.kind = 1 then
    demandFrame (f.word 0) (BitVec.ofNat 4 ((f.byte 2).toNat / 16)) (BitVec.ofNat 4 (f.byte 2).toNat) (f.word 3) s
  else if f.kind = 2 then deliverRearward (.request (f.byte 1) f.request) s
  else deliverTableWrite f.tableWrite s

/-- TOW_FRAME_DISCARDED (R160, R171, R172; a frame that R160 does not discard acts by its bits, notes/assumptions/26.md). -/
def execTowFrameDiscarded (f : RxFrame) (s : State) : Outcome := towFrame f s

/-- REAR_FRAME (R160, R166, R172). -/
def execRearFrame (f : RxFrame) (s : State) : Outcome :=
  if s.apu.power = .run then
    (if f.malformed || !f.forwardKind then (Ev.start s).discardRear
     else (Ev.start s).queueForward [{ frame := { id := f.id, data := f.data } }]).conclude
  else .next s

/-! ## Transmitters (R166, R186) -/

/-- R166, R186: the tow transmitter has finished with its frame and takes the next, or the commanded reset takes place. -/
def towTxFree (s : State) : Outcome :=
  match s.lru.towTx with
  | some f =>
    let e := (Ev.start s).setLru { s.lru with towTx := none }
    (if f.resetDone then e.resetHere else e.pumpTow).conclude
  | none => .next s

/-- TOW_TX_DONE (R166, R186). -/
def execTowTxDone (s : State) : Outcome := towTxFree s

/-- TOW_TX_ABANDON (R166, R186): an abandoned frame is lost. -/
def execTowTxAbandon (s : State) : Outcome := towTxFree s

/-- R166: the rear transmitter has finished with its frame and takes the next. -/
def rearTxFree (s : State) : Outcome :=
  match s.lru.rearTx with
  | some _ => (((Ev.start s).setLru { s.lru with rearTx := none }).pumpRear).conclude
  | none => .next s

/-- REAR_TX_DONE (R166). -/
def execRearTxDone (s : State) : Outcome := rearTxFree s

/-- REAR_TX_ABANDON (R166). -/
def execRearTxAbandon (s : State) : Outcome := rearTxFree s

end Sys2Proof.Machine
end

