-- ==== Sys2Proof/Machine/Load.lean ====
section
/-! DEFINITION. The commands of the load apportioner (chapter 2): load samples, stale and fallback timers. -/

namespace Sys2Proof.Machine

/-- R25: the axle that a LOAD_SAMPLE names. -/
def axleOf (axle : Byte) : Option (Fin 4) :=
  if h : 1 ≤ axle.toNat ∧ axle.toNat ≤ 4 then some ⟨axle.toNat - 1, by omega⟩ else none

/-- R25: load samples are taken in RUN after restore has ended. -/
def State.takesSamples (s : State) : Bool := s.apu.power = .run && !s.restoring

/-- LOAD_SAMPLE (R25 to R28, R31, R34). -/
def execLoadSample (axle : Byte) (bag : BitVec 16) (status : Byte) (s : State) : Outcome :=
  match axleOf axle with
  | some a =>
    if s.takesSamples = true ∧ s.tbu.active.axle[a].present = true ∧ status = 0 then
      (((Ev.start s).takeSample a (clampTo 1000 bag)).react).conclude
    else .next s
  | none => .next s

/-- R31, R32: an axle's record after its stale timer expires. -/
def LoadRecord.goStale (r : LoadRecord) (fallback : Timer) : LoadRecord :=
  match r.status with
  | .unknown => { r with silent := true, staleTimer := none }
  | .live => { r with status := .stale, staleTimer := none, fallbackTimer := fallback }
  | .stale => { r with staleTimer := none }
  | .fallback => { r with staleTimer := none }

/-- STALE_TIMER_EXPIRY (R31, R32). -/
def execStaleTimerExpiry (axle : Fin 4) (s : State) : Outcome :=
  match s.lap.axles[axle].staleTimer with
  | some _ => ((((Ev.start s).setAxle axle fun r => r.goStale (s.timer fallbackMs))).react).conclude
  | none => .next s

/-- R33: an axle's record after its fallback timer expires. -/
def LoadRecord.goFallback (r : LoadRecord) : LoadRecord :=
  { r with status := if r.status = .stale then .fallback else r.status, fallbackTimer := none }

/-- FALLBACK_TIMER_EXPIRY (R33). -/
def execFallbackTimerExpiry (axle : Fin 4) (s : State) : Outcome :=
  match s.lap.axles[axle].fallbackTimer with
  | some _ => (((Ev.start s).setAxle axle LoadRecord.goFallback).react).conclude
  | none => .next s

end Sys2Proof.Machine
end

