-- ==== Sys2Proof/Machine/Power.lean ====
section
/-! DEFINITION. Resets, restore and the power states (9.8, 9.9, 10.4): POWER_ON_RESET, BROWN_OUT_RESET, RESTORE_SLOT_READ, RESTORE_END,
TOW_POWER_LOSS, STANDBY_TIMER_EXPIRY and TOW_POWER_RETURN. -/

namespace Sys2Proof.Machine

/-- POWER_ON_RESET (R184, R183, R192). -/
def execPowerOnReset (towPower : Bool) (s : State) : Outcome := .next (s.restart towPower { powerOn := true })

/-- BROWN_OUT_RESET (R184, R183, R192). -/
def execBrownOutReset (towPower : Bool) (s : State) : Outcome := .next (s.restart towPower { s.apu.cause with brownOut := true })

/-! ## Restore (R192, R143) -/

/-- R143: a REG_ENTRY record's data: the entry and what it holds after the record, `none` for the empty marks. A record that names no
entry or no binding is passed over (notes/assumptions/32.md). -/
def regEntryOf (data : List Byte) : Option (Fin 20 × Option (BitVec 32 × Binding)) :=
  let index := (data.getD 0 0).toNat
  let ident := BitVec.ofNat 32 (fromBytes ((data.drop 1).take 4))
  let code := (data.getD 5 0).toNat
  if h : 1 ≤ index ∧ index ≤ 20 then
    if ident = 0 ∧ code = 0 then some (⟨index - 1, by omega⟩, none)
    else
      match Binding.ofCode code with
      | some b => if validIdent ident then some (⟨index - 1, by omega⟩, some (ident, b)) else none
      | none => none
  else none

/-- R143: whether a bound entry conflicts with an identifier or a binding. -/
def Bound.conflicts (b : Bound) (ident : BitVec 32) (binding : Binding) : Bool := b.ident = ident || b.binding = binding

/-- R143: a REG_ENTRY record is applied whole. -/
def applyRegEntry (entries : Vector (Option Bound) 20) (i : Fin 20) (x : Option (BitVec 32 × Binding)) : Vector (Option Bound) 20 :=
  match x with
  | none => entries.set i none
  | some (ident, binding) =>
    (Vector.ofFn fun j =>
      match entries[j] with
      | some b => if b.conflicts ident binding then none else some b
      | none => none).set i (some { ident := ident, binding := binding })

/-- R192: a recognised VALID record is taken: a TABLE record as its table's candidate, a REG_ENTRY record into the registry. A TABLE record
whose byte 4 names no table is passed over whole, the model's choice (notes/assumptions/42.md). -/
def Ev.restoreRecord (e : Ev) (r : Restore) (n length : Nat) : Ev :=
  let data := dataAt e.rst.memory n length
  match kindAt e.rst.memory n with
  | some .table =>
    match TableId.ofCode (e.rst.memory.read (16 * n + 4)).toNat with
    | some id => e.setRst { e.rst with restore := some { r with candidates := tableOfData r.candidates id data } }
    | none => e.setRst { e.rst with restore := some r }
  | some .regEntry =>
    match regEntryOf data with
    | some (i, x) => (e.setTwu { e.twu with entries := applyRegEntry e.twu.entries i x }).setRst { e.rst with restore := some r }
    | none => e.setRst { e.rst with restore := some r }
  | _ => e.setRst { e.rst with restore := some r }

/-- R192: one slot is read; a record is taken whole at its header slot (notes/assumptions/12.md). A record whose state byte is none of WRITING,
VALID and SUPERSEDED is skipped whole, the model's choice (notes/assumptions/41.md). -/
def Ev.restoreSlot (e : Ev) (r : Restore) : Ev :=
  let n := r.next
  let r1 := { r with next := n + 1 }
  match (if r.skipTo ≤ n then recordAt e.rst.memory e.rst.writePos n else none) with
  | some length =>
    let r2 := { r1 with skipTo := n + length }
    if stateAt e.rst.memory n = stateValid then e.restoreRecord r2 n length else e.setRst { e.rst with restore := some r2 }
  | none => e.setRst { e.rst with restore := some r1 }

/-- RESTORE_SLOT_READ (R192, R143). -/
def execRestoreSlotRead (s : State) : Outcome :=
  match s.rst.restore with
  | some r => if r.next < s.rst.writePos then ((Ev.start s).restoreSlot r).conclude else .next s
  | none => .next s

/-! ## Entry into STANDBY (R181) -/

/-- R181: the alert and power unit enters STANDBY. -/
def Ev.apuStandby (e : Ev) : Ev :=
  e.setApu { e.apu with
    power := .standby, statusTimer := none, standbyTimer := e.timer (e.tbu.active.tyre.standbyLimit * 3600000) }

/-- R181: the part enters STANDBY; every block applies its own rule (R22, R49, R76, R106, R144, R172). -/
def Ev.enterStandby (e : Ev) : Ev :=
  ((((((e.apuStandby).airStandby).cancelService).rouStandby).twuStandby).lapStandby).lruStandby

/-- R186: RESET's DONE still waits in the forward queue. -/
def State.resetDoneWaits (s : State) : Bool := s.apu.resetPending && s.lru.forwardQueue.any fun f => f.resetDone

/-- TOW_POWER_LOSS (R181, R183, R186). During restore, and outside RUN, only the pin changes. -/
def execTowPowerLoss (s : State) : Outcome :=
  let e := (Ev.start s).setApu { s.apu with towPower := false }
  if s.restoring ∨ s.apu.power ≠ .run then e.conclude
  else if s.resetDoneWaits then e.resetHere.conclude
  else ((e.enterStandby).react).conclude

/-- R181, R128: the part enters SLEEP. -/
def Ev.enterSleep (e : Ev) : Ev := ((e.setApu { e.apu with power := .sleep, standbyTimer := none }).twuSleep).reformLamp

/-- STANDBY_TIMER_EXPIRY (R181, R128, R176). -/
def execStandbyTimerExpiry (s : State) : Outcome :=
  match s.apu.standbyTimer, s.apu.power with
  | some _, .standby => (((Ev.start s).enterSleep).record).conclude
  | _, _ => .next s

/-! ## Return to RUN (R182) -/

/-- R182: the alert and power unit returns to RUN. -/
def Ev.apuReturn (e : Ev) : Ev :=
  (e.setApu { e.apu with power := .run, standbyTimer := none, statusTimer := e.timer statusMs }).reformLamp

/-- R182: the part goes back to RUN; every block applies its own rule (R23, R50, R76, R106, R128). -/
def Ev.returnToRun (e : Ev) (slept : Bool) : Ev :=
  let e1 := ((((e.apuReturn).airReturn).lapReturn).channelsReturn).rouReturn
  if slept then e1.twuWake else e1

/-- TOW_POWER_RETURN (R182, R183). During restore, and in RUN, only the pin changes. -/
def execTowPowerReturn (s : State) : Outcome :=
  let e := (Ev.start s).setApu { s.apu with towPower := true }
  if s.restoring ∨ s.apu.power = .run then e.conclude
  else ((e.returnToRun (s.apu.power = .sleep)).react).conclude

/-! ## The end of restore (R192, R183) -/

/-- R192: the tables take their candidates and the shadows are made equal. -/
def Ev.takeCandidates (e : Ev) (r : Restore) : Ev :=
  (e.setTbu { e.tbu with active := r.candidates, shadow := r.candidates, differs := false }).setRst { e.rst with restore := none }

/-- R24, R51, R107, R129, R178: every block's rule for the end of restore. -/
def Ev.blocksRestored (e : Ev) : Ev :=
  (((((e.airRestored).lapRestored).formTotal).rouRestored).twuRestored).formConfigured.reformLamp

/-- R183: the power state at the end of restore is decided by tow power as it then stands (notes/assumptions/20.md). -/
def Ev.powerRestored (e : Ev) : Ev :=
  if e.apu.towPower then e.setApu { e.apu with power := .run, statusTimer := e.timer statusMs } else e.enterStandby

/-- R192: a RESET record carrying the reset cause register is queued. -/
def Ev.queueReset (e : Ev) : Ev := e.queueEvent (resetRecord e.apu.seconds e.apu.cause)

/-- RESTORE_END (R192, R183): once every slot up to the write position has been read. -/
def execRestoreEnd (s : State) : Outcome :=
  match s.rst.restore with
  | some r =>
    if s.rst.writePos ≤ r.next then
      ((((((Ev.start s).takeCandidates r).blocksRestored).queueReset).powerRestored).react).conclude
    else .next s
  | none => .next s

end Sys2Proof.Machine
end

