-- ==== Sys2Proof/Machine/Rollover.lean ====
section
/-! DEFINITION. The commands of the rollover unit (chapter 4): lateral samples and its four timers. -/

namespace Sys2Proof.Machine

/-- R78: lateral samples are taken in RUN after restore has ended unless the unit is OFF with cause DISABLED. -/
def State.takesLateral (s : State) : Bool := s.apu.power = .run && !s.restoring && s.rou.state != .off .disabled

/-- LATERAL_SAMPLE (R78, R79, R84 to R100). -/
def execLateralSample (value : BitVec 16) (status : Byte) (s : State) : Outcome :=
  if s.takesLateral then
    ((if status = 0 then (Ev.start s).takeLateral (clampLateral value) else (Ev.start s).sensorFailure).react).conclude
  else .next s

/-- LATERAL_TIMER_EXPIRY (R79, R99). -/
def execLateralTimerExpiry (s : State) : Outcome :=
  match s.rou.lateralTimer with
  | some _ => ((((Ev.start s).setRou { s.rou with lateralTimer := none }).sensorFailure).react).conclude
  | none => .next s

/-- HOLD_TIMER_EXPIRY (R94). -/
def execHoldTimerExpiry (s : State) : Outcome :=
  match s.rou.holdTimer, s.rou.state with
  | some _, .intervene => (((Ev.start s).enterHoldoff).react).conclude
  | _, _ => .next s

/-- RAMP_TIMER_EXPIRY (R95, R97, R103). -/
def execRampTimerExpiry (s : State) : Outcome :=
  match s.rou.rampTimer, s.rou.state with
  | some _, .holdoff => (((Ev.start s).ramp).react).conclude
  | _, _ => .next s

/-- LOCKOUT_TIMER_EXPIRY (R98). -/
def execLockoutTimerExpiry (s : State) : Outcome := ((Ev.start s).setRou { s.rou with lockoutTimer := none }).conclude

end Sys2Proof.Machine
end

