-- ==== Sys2Proof/Machine/Dispatch.lean ====
section
/-! DEFINITION. The dispatch of a command to its meaning: one arm per constructor of Instr. -/

namespace Sys2Proof.Machine

/-- A command's effect on everything but the queue of commands. -/
def exec (i : Instr) (s : State) : Host.Outcome State Fault Refusal :=
  match i with
  | .powerOnReset towPower => Sys2Proof.Machine.execPowerOnReset towPower s
  | .brownOutReset towPower => Sys2Proof.Machine.execBrownOutReset towPower s
  | .restoreSlotRead => Sys2Proof.Machine.execRestoreSlotRead s
  | .restoreEnd => Sys2Proof.Machine.execRestoreEnd s
  | .towPowerLoss => Sys2Proof.Machine.execTowPowerLoss s
  | .standbyTimerExpiry => Sys2Proof.Machine.execStandbyTimerExpiry s
  | .towPowerReturn => Sys2Proof.Machine.execTowPowerReturn s
  | .secondsTick => Sys2Proof.Machine.execSecondsTick s
  | .statusTimerExpiry => Sys2Proof.Machine.execStatusTimerExpiry s
  | .airSample supply reservoir control status => Sys2Proof.Machine.execAirSample supply reservoir control status s
  | .airSampleTimerExpiry => Sys2Proof.Machine.execAirSampleTimerExpiry s
  | .demand pressure hop seq speed => Sys2Proof.Machine.execDemand pressure hop seq speed s
  | .linkTimerExpiry => Sys2Proof.Machine.execLinkTimerExpiry s
  | .valveReply node position => Sys2Proof.Machine.execValveReply node position s
  | .valvePollDue => Sys2Proof.Machine.execValvePollDue s
  | .valveTimerExpiry => Sys2Proof.Machine.execValveTimerExpiry s
  | .autoParkTimerExpiry => Sys2Proof.Machine.execAutoParkTimerExpiry s
  | .releaseHoldTimerExpiry => Sys2Proof.Machine.execReleaseHoldTimerExpiry s
  | .parkApply r => Sys2Proof.Machine.execParkApply r s
  | .parkRelease r => Sys2Proof.Machine.execParkRelease r s
  | .loadSample axle bag status => Sys2Proof.Machine.execLoadSample axle bag status s
  | .staleTimerExpiry axle => Sys2Proof.Machine.execStaleTimerExpiry axle s
  | .fallbackTimerExpiry axle => Sys2Proof.Machine.execFallbackTimerExpiry axle s
  | .chassisTxDone => Sys2Proof.Machine.execChassisTxDone s
  | .chassisTxAbandon => Sys2Proof.Machine.execChassisTxAbandon s
  | .refreshTimerExpiry channel => Sys2Proof.Machine.execRefreshTimerExpiry channel s
  | .modReply node pressure speed fault => Sys2Proof.Machine.execModReply node pressure speed fault s
  | .unmaskChannel r => Sys2Proof.Machine.execUnmaskChannel r s
  | .readChannel r => Sys2Proof.Machine.execReadChannel r s
  | .phaseTimerExpiry train => Sys2Proof.Machine.execPhaseTimerExpiry train s
  | .serviceActuate r => Sys2Proof.Machine.execServiceActuate r s
  | .serviceHoldTimerExpiry => Sys2Proof.Machine.execServiceHoldTimerExpiry s
  | .lateralSample value status => Sys2Proof.Machine.execLateralSample value status s
  | .lateralTimerExpiry => Sys2Proof.Machine.execLateralTimerExpiry s
  | .holdTimerExpiry => Sys2Proof.Machine.execHoldTimerExpiry s
  | .rampTimerExpiry => Sys2Proof.Machine.execRampTimerExpiry s
  | .lockoutTimerExpiry => Sys2Proof.Machine.execLockoutTimerExpiry s
  | .tyreTelegram ident pressure temperature flags => Sys2Proof.Machine.execTyreTelegram ident pressure temperature flags s
  | .repeatWindowEnd entry => Sys2Proof.Machine.execRepeatWindowEnd entry s
  | .missingTimerExpiry entry => Sys2Proof.Machine.execMissingTimerExpiry entry s
  | .learn r => Sys2Proof.Machine.execLearn r s
  | .learnTimerExpiry => Sys2Proof.Machine.execLearnTimerExpiry s
  | .assign r => Sys2Proof.Machine.execAssign r s
  | .remove r => Sys2Proof.Machine.execRemove r s
  | .exchange r => Sys2Proof.Machine.execExchange r s
  | .exchangeTimerExpiry => Sys2Proof.Machine.execExchangeTimerExpiry s
  | .readRegistry r => Sys2Proof.Machine.execReadRegistry r s
  | .readTyre r => Sys2Proof.Machine.execReadTyre r s
  | .tableWrite w => Sys2Proof.Machine.execTableWrite w s
  | .readTable r => Sys2Proof.Machine.execReadTable r s
  | .discard r => Sys2Proof.Machine.execDiscard r s
  | .insert r => Sys2Proof.Machine.execInsert r s
  | .requestUnknown code r => Sys2Proof.Machine.execRequestUnknown code r s
  | .requestNotReady f => Sys2Proof.Machine.execRequestNotReady f s
  | .requestNotAddressed f => Sys2Proof.Machine.execRequestNotAddressed f s
  | .towFrameDiscarded f => Sys2Proof.Machine.execTowFrameDiscarded f s
  | .rearFrame f => Sys2Proof.Machine.execRearFrame f s
  | .towTxDone => Sys2Proof.Machine.execTowTxDone s
  | .towTxAbandon => Sys2Proof.Machine.execTowTxAbandon s
  | .rearTxDone => Sys2Proof.Machine.execRearTxDone s
  | .rearTxAbandon => Sys2Proof.Machine.execRearTxAbandon s
  | .cancel r => Sys2Proof.Machine.execCancel r s
  | .identify r => Sys2Proof.Machine.execIdentify r s
  | .nextAlert r => Sys2Proof.Machine.execNextAlert r s
  | .ackAlert r => Sys2Proof.Machine.execAckAlert r s
  | .reset r => Sys2Proof.Machine.execReset r s
  | .clearCause r => Sys2Proof.Machine.execClearCause r s
  | .readRecordFirst r => Sys2Proof.Machine.execReadRecordFirst r s
  | .readRecordNext r => Sys2Proof.Machine.execReadRecordNext r s
  | .eraseStore r => Sys2Proof.Machine.execEraseStore r s
  | .eraseEnd => Sys2Proof.Machine.execEraseEnd s
  | .recordSlotWritten readBack => Sys2Proof.Machine.execRecordSlotWritten readBack s

end Sys2Proof.Machine
end

