-- ==== Sys2Proof/Machine/Step.lean ====
section
/-! DEFINITION. One step: the command at the front of the queue, or one millisecond of idling (notes/assumptions/1.md). -/

namespace Sys2Proof.Machine

/-- One step: the command at the front is executed with the queue's rest; with no command waiting the block idles while 1 ms passes on the
model's clock (notes/assumptions/1.md). -/
def step (s : State) : Host.Outcome State Fault Refusal :=
  match s.pending with
  | [] => .next { s with clock := s.clock + 1 }
  | c :: rest => exec c { s with pending := rest }

/-- The state with the command that a table word spells at the front of its queue. No row of the table gives bits, so no word spells a
command and the state is unchanged (notes/assumptions/30.md). -/
def State.withFetchWord (s : State) (nbits w : Nat) : State :=
  match decodeTableWord nbits w with
  | some c => { s with pending := c :: s.pending }
  | none => s

end Sys2Proof.Machine
end

