-- ==== Sys2Proof/WellFormed.lean ====
section
/-! DEFINITION. What a command must satisfy beyond its operands' widths: the rows that the table defines by what their frame is. -/

namespace Sys2Proof

/-- R165: a request code that is not in the table of 8.5 (the codes of 11.2 are 1 to 23). -/
def unknownCode (code : Byte) : Bool := code = 0 || decide (23 < code.toNat)

/-- A classical CAN frame has at most 8 data bytes (1, 11). -/
def RxFrame.classical (f : RxFrame) : Bool := decide (f.len.toNat ≤ 8)

/-- R160: a tow-link frame that is discarded on arrival. -/
def RxFrame.towDiscardable (f : RxFrame) : Bool := f.malformed || f.forwardKind


/-- Whether a command is one that its row of the table describes. -/
def Instr.wellFormed : Instr → Bool
  | .requestUnknown code _ => unknownCode code
  | .towFrameDiscarded f => f.classical && f.towDiscardable
  | .rearFrame f => f.classical
  | _ => true

end Sys2Proof
end

