-- ==== Sys2Proof/Laws/PerInstr.lean ====
section
/-! SUPPORT. The family of statements made per command: the frame that a well-formed command arrives as is decoded to that command. -/

namespace Sys2Proof.Laws.Framed

open Sys2Proof Sys2Proof.Machine

/-- The frame a command arrives as, on the tow link or on the chassis bus, is decoded to that command (11.1, 11.2, 11.4). -/
def Statement (i : Instr) : Prop :=
  i.wellFormed = true →
    (∀ f, i.towFrame = some f → commandOfTowFrame f = i) ∧ ∀ f, i.chassisFrame = some f → commandOfChassisFrame f = some i

/-! ## Bytes of a frame -/

theorem toNat_byte (f : RxFrame) (i : Nat) : (f.byte i).toNat = f.data.toNat / 256 ^ (7 - i) % 256 := by
  simp [RxFrame.byte, BitVec.toNat_ofNat]

theorem kind_link (k p : Nat) (d : BitVec 64) (hk : k < 16) (hp : p < 16) :
    (CanFrame.arriving ⟨linkId k p, d⟩).kind = k := by
  simp only [CanFrame.arriving, RxFrame.kind, linkId, BitVec.toNat_ofNat]
  omega

theorem low_link (k p : Nat) (d : BitVec 64) : (CanFrame.arriving ⟨linkId k p, d⟩).id.toNat % 8 = 0 := by
  simp only [CanFrame.arriving, linkId, BitVec.toNat_ofNat]
  omega

theorem position_link (k : Nat) (p : BitVec 4) (d : BitVec 64) (hk : k < 16) :
    (CanFrame.arriving ⟨linkId k p.toNat, d⟩).position = p := by
  apply BitVec.eq_of_toNat_eq
  have := p.isLt
  simp only [CanFrame.arriving, RxFrame.position, linkId, BitVec.toNat_ofNat]
  omega

theorem well_formed_link (k p : Nat) (d : BitVec 64) (hk : k = 1 ∨ k = 2 ∨ k = 3) (hp : p < 16) :
    (CanFrame.arriving ⟨linkId k p, d⟩).malformed = false ∧ (CanFrame.arriving ⟨linkId k p, d⟩).forwardKind = false := by
  have h1 := kind_link k p d (by omega) hp
  have h2 := low_link k p d
  unfold RxFrame.malformed RxFrame.forwardKind
  rw [h1, h2]
  rcases hk with rfl | rfl | rfl <;> exact ⟨by simp [CanFrame.arriving], by decide⟩

/-- A request's frame is decoded to the command of its code. -/
theorem request_frame (code : Byte) (r : Request) :
    commandOfTowFrame (Request.frame code r).arriving = requestCommand code r := by
  have hp : r.target.toNat < 16 := r.target.isLt
  have h := well_formed_link 2 r.target.toNat (Request.frame code r).data (by omega) hp
  have hk := kind_link 2 r.target.toNat (Request.frame code r).data (by omega) hp
  have hpos := position_link 2 r.target (Request.frame code r).data (by omega)
  have e : (⟨linkId 2 r.target.toNat, (Request.frame code r).data⟩ : CanFrame) = Request.frame code r := rfl
  rw [e] at h hk hpos
  have h1 := r.tag.isLt
  have h2 := code.isLt
  have h3 := r.flags.isLt
  have h4 := r.args.isLt
  have hd : (Request.frame code r).arriving.data.toNat =
      ((r.tag.toNat * 256 + code.toNat) * 256 + r.flags.toNat) * 1099511627776 + r.args.toNat := by
    simp only [CanFrame.arriving, Request.frame, BitVec.toNat_ofNat]
    omega
  have hb : (Request.frame code r).arriving.byte 1 = code := by
    apply BitVec.eq_of_toNat_eq
    rw [toNat_byte, hd]
    omega
  have hr : (Request.frame code r).arriving.request = r := by
    have t : (Request.frame code r).arriving.byte 0 = r.tag := by
      apply BitVec.eq_of_toNat_eq
      rw [toNat_byte, hd]
      omega
    have g : (Request.frame code r).arriving.byte 2 = r.flags := by
      apply BitVec.eq_of_toNat_eq
      rw [toNat_byte, hd]
      omega
    have a : BitVec.ofNat 40 (Request.frame code r).arriving.data.toNat = r.args := by
      apply BitVec.eq_of_toNat_eq
      rw [hd, BitVec.toNat_ofNat]
      omega
    unfold RxFrame.request
    rw [t, g, a, hpos]
  unfold commandOfTowFrame
  rw [h.1, h.2, hk, hb, hr]
  rfl

/-- A TABLE_WRITE's frame is decoded to it. -/
theorem table_frame (w : TableWriteFrame) : commandOfTowFrame w.frame.arriving = .tableWrite w := by
  have hp : w.target.toNat < 16 := w.target.isLt
  have h := well_formed_link 3 w.target.toNat w.frame.data (by omega) hp
  have hk := kind_link 3 w.target.toNat w.frame.data (by omega) hp
  have hpos := position_link 3 w.target w.frame.data (by omega)
  have e : (⟨linkId 3 w.target.toNat, w.frame.data⟩ : CanFrame) = w.frame := rfl
  rw [e] at h hk hpos
  have h1 := w.tag.isLt
  have h2 := w.table.isLt
  have h3 := w.entry.isLt
  have h4 := w.area.isLt
  have hd : w.frame.arriving.data.toNat =
      ((w.tag.toNat * 8 + w.table.toNat) * 32 + w.entry.toNat) * 281474976710656 + w.area.toNat := by
    simp only [CanFrame.arriving, TableWriteFrame.frame, BitVec.toNat_ofNat]
    omega
  have hw : w.frame.arriving.tableWrite = w := by
    have t : w.frame.arriving.byte 0 = w.tag := by
      apply BitVec.eq_of_toNat_eq
      rw [toNat_byte, hd]
      omega
    have b : (w.frame.arriving.byte 1).toNat = w.table.toNat * 32 + w.entry.toNat := by
      rw [toNat_byte, hd]
      omega
    have tt : BitVec.ofNat 3 ((w.frame.arriving.byte 1).toNat / 32) = w.table := by
      apply BitVec.eq_of_toNat_eq
      rw [b, BitVec.toNat_ofNat]
      omega
    have n : BitVec.ofNat 5 (w.frame.arriving.byte 1).toNat = w.entry := by
      apply BitVec.eq_of_toNat_eq
      rw [b, BitVec.toNat_ofNat]
      omega
    have a : BitVec.ofNat 48 w.frame.arriving.data.toNat = w.area := by
      apply BitVec.eq_of_toNat_eq
      rw [hd, BitVec.toNat_ofNat]
      omega
    unfold RxFrame.tableWrite
    rw [t, tt, n, a, hpos]
  unfold commandOfTowFrame
  rw [h.1, h.2, hk, hw]
  rfl

/-! ## Frames built from bytes -/

/-- The number that eight bytes spell as a frame's data. -/
theorem toNat_pack (a b c d e f g h : Byte) :
    (packBytes [a, b, c, d, e, f, g, h]).toNat =
      ((((((a.toNat * 256 + b.toNat) * 256 + c.toNat) * 256 + d.toNat) * 256 + e.toNat) * 256 + f.toNat) * 256 + g.toNat) * 256 +
        h.toNat := by
  have := a.isLt
  have := b.isLt
  have := c.isLt
  have := d.isLt
  have := e.isLt
  have := f.isLt
  have := g.isLt
  have := h.isLt
  simp only [packBytes, List.cons_append, List.nil_append, List.take, List.replicate, List.foldl, BitVec.toNat_ofNat]
  omega

/-- The bytes of a frame built from eight bytes. -/
theorem bytes_pack (id : BitVec 11) (a b c d e f g h : Byte) :
    let x : RxFrame := { id := id, len := 8, data := packBytes [a, b, c, d, e, f, g, h] }
    x.byte 0 = a ∧ x.byte 1 = b ∧ x.byte 2 = c ∧ x.byte 3 = d ∧ x.byte 4 = e ∧ x.byte 5 = f ∧ x.byte 6 = g ∧ x.byte 7 = h := by
  have := a.isLt
  have := b.isLt
  have := c.isLt
  have := d.isLt
  have := e.isLt
  have := f.isLt
  have := g.isLt
  have := h.isLt
  refine ⟨?_, ?_, ?_, ?_, ?_, ?_, ?_, ?_⟩ <;>
    · apply BitVec.eq_of_toNat_eq
      rw [toNat_byte]
      simp only [toNat_pack]
      omega

/-- A list of fewer than eight bytes is filled out with 0. -/
theorem pack_fill (l : List Byte) (n : Nat) (h : l.length + n ≤ 8) : packBytes l = packBytes (l ++ List.replicate n 0) := by
  have e : (l ++ List.replicate 8 0).take 8 = (l ++ List.replicate n 0 ++ List.replicate 8 (0 : Byte)).take 8 := by
    rw [List.append_assoc, List.replicate_append_replicate, List.take_append, List.take_append, List.take_replicate, List.take_replicate,
      show min (8 - l.length) 8 = min (8 - l.length) (n + 8) by omega]
  unfold packBytes
  rw [e]

theorem word_of (x : RxFrame) (i : Nat) (w : BitVec 16) (h1 : x.byte i = BitVec.ofNat 8 (w.toNat / 256))
    (h2 : x.byte (i + 1) = BitVec.ofNat 8 w.toNat) : x.word i = w := by
  have := w.isLt
  apply BitVec.eq_of_toNat_eq
  rw [RxFrame.word, h1, h2]
  simp only [BitVec.toNat_ofNat]
  omega

theorem demand_frame (pressure : BitVec 16) (hop seq : BitVec 4) (speed : BitVec 16) (f : RxFrame)
    (h : (Instr.demand pressure hop seq speed).towFrame = some f) : commandOfTowFrame f = .demand pressure hop seq speed := by
  have e : f = { id := linkId 1 0, len := 8, data := packBytes [BitVec.ofNat 8 (pressure.toNat / 256), BitVec.ofNat 8 pressure.toNat,
      BitVec.ofNat 8 (hop.toNat * 16 + seq.toNat), BitVec.ofNat 8 (speed.toNat / 256), BitVec.ofNat 8 speed.toNat, 0, 0, 0] } := by
    simp only [Instr.towFrame, Option.some.injEq] at h
    rw [← h, pack_fill _ 3 (by simp [be16])]
    rfl
  have hm := well_formed_link 1 0 f.data (by omega) (by omega)
  have hk := kind_link 1 0 f.data (by omega) (by omega)
  have ef : CanFrame.arriving ⟨linkId 1 0, f.data⟩ = f := by rw [e]; rfl
  rw [ef] at hm hk
  have hb := bytes_pack (linkId 1 0) (BitVec.ofNat 8 (pressure.toNat / 256)) (BitVec.ofNat 8 pressure.toNat)
    (BitVec.ofNat 8 (hop.toNat * 16 + seq.toNat)) (BitVec.ofNat 8 (speed.toNat / 256)) (BitVec.ofNat 8 speed.toNat) 0 0 0
  simp only [] at hb
  rw [← e] at hb
  have w0 := word_of f 0 pressure hb.1 hb.2.1
  have w3 := word_of f 3 speed hb.2.2.2.1 hb.2.2.2.2.1
  have h1 := hop.isLt
  have h2 := seq.isLt
  have hh : BitVec.ofNat 4 ((f.byte 2).toNat / 16) = hop := by
    apply BitVec.eq_of_toNat_eq
    rw [hb.2.2.1]
    simp only [BitVec.toNat_ofNat]
    omega
  have hs : BitVec.ofNat 4 (f.byte 2).toNat = seq := by
    apply BitVec.eq_of_toNat_eq
    rw [hb.2.2.1]
    simp only [BitVec.toNat_ofNat]
    omega
  unfold commandOfTowFrame
  rw [hm.1, hm.2, hk, w0, w3, hh, hs]
  rfl

/-- A chassis bus frame of a kind with node 0 is not discarded. -/
theorem chassis_kind (id : BitVec 11) (d : BitVec 64) (k n : Nat) (h : id.toNat = 128 * k + n) (hn : n < 32) :
    let f : RxFrame := { id := id, len := 8, data := d }
    f.kind = k ∧ f.id.toNat / 32 % 4 = 0 ∧ f.len = 8 ∧ f.node.toNat = n := by
  refine ⟨?_, ?_, rfl, ?_⟩ <;>
    · simp only [RxFrame.kind, RxFrame.node, BitVec.toNat_ofNat, h]
      omega

/-- The bytes of a chassis bus frame as quantities. -/
theorem load_frame (axle : Byte) (bag : BitVec 16) (status : Byte) (f : RxFrame)
    (h : (Instr.loadSample axle bag status).chassisFrame = some f) : commandOfChassisFrame f = some (.loadSample axle bag status) := by
  have e : f = (⟨BitVec.ofNat 11 128, 8,
      packBytes [axle, BitVec.ofNat 8 (bag.toNat / 256), BitVec.ofNat 8 bag.toNat, status, 0, 0, 0, 0]⟩ : RxFrame) := by
    simp only [Instr.chassisFrame, Option.some.injEq] at h
    rw [← h, pack_fill _ 4 (by simp [be16])]
    rfl
  have hk := chassis_kind (BitVec.ofNat 11 128) f.data 1 0 (by decide) (by omega)
  have hb := bytes_pack (BitVec.ofNat 11 128) axle (BitVec.ofNat 8 (bag.toNat / 256)) (BitVec.ofNat 8 bag.toNat) status 0 0 0 0
  have ef : ({ id := BitVec.ofNat 11 128, len := 8, data := f.data } : RxFrame) = f := by rw [e]
  rw [ef] at hk
  simp only [] at hb
  rw [← e] at hb
  have w := word_of f 1 bag hb.2.1 hb.2.2.1
  unfold commandOfChassisFrame
  rw [hk.2.1, hk.2.2.1, hk.1, hb.1, w, hb.2.2.2.1]
  rfl

theorem air_frame (supply reservoir control : BitVec 16) (status : Byte) (f : RxFrame)
    (h : (Instr.airSample supply reservoir control status).chassisFrame = some f) :
    commandOfChassisFrame f = some (.airSample supply reservoir control status) := by
  have e : f = (⟨BitVec.ofNat 11 256, 8,
      packBytes [BitVec.ofNat 8 (supply.toNat / 256), BitVec.ofNat 8 supply.toNat, BitVec.ofNat 8 (reservoir.toNat / 256),
        BitVec.ofNat 8 reservoir.toNat, BitVec.ofNat 8 (control.toNat / 256), BitVec.ofNat 8 control.toNat, status, 0]⟩ : RxFrame) := by
    simp only [Instr.chassisFrame, Option.some.injEq] at h
    rw [← h, pack_fill _ 1 (by simp [be16])]
    rfl
  have hk := chassis_kind (BitVec.ofNat 11 256) f.data 2 0 (by decide) (by omega)
  have hb := bytes_pack (BitVec.ofNat 11 256) (BitVec.ofNat 8 (supply.toNat / 256)) (BitVec.ofNat 8 supply.toNat)
    (BitVec.ofNat 8 (reservoir.toNat / 256)) (BitVec.ofNat 8 reservoir.toNat) (BitVec.ofNat 8 (control.toNat / 256))
    (BitVec.ofNat 8 control.toNat) status 0
  have ef : ({ id := BitVec.ofNat 11 256, len := 8, data := f.data } : RxFrame) = f := by rw [e]
  rw [ef] at hk
  simp only [] at hb
  rw [← e] at hb
  obtain ⟨b0, b1, b2, b3, b4, b5, b6, _⟩ := hb
  unfold commandOfChassisFrame
  rw [hk.2.1, hk.2.2.1, hk.1, word_of f 0 supply b0 b1, word_of f 2 reservoir b2 b3, word_of f 4 control b4 b5, b6]
  rfl

theorem lateral_frame (value : BitVec 16) (status : Byte) (f : RxFrame)
    (h : (Instr.lateralSample value status).chassisFrame = some f) :
    commandOfChassisFrame f = some (.lateralSample value status) := by
  have e : f = (⟨BitVec.ofNat 11 384, 8,
      packBytes [BitVec.ofNat 8 (value.toNat / 256), BitVec.ofNat 8 value.toNat, status, 0, 0, 0, 0, 0]⟩ : RxFrame) := by
    simp only [Instr.chassisFrame, Option.some.injEq] at h
    rw [← h, pack_fill _ 5 (by simp [be16])]
    rfl
  have hk := chassis_kind (BitVec.ofNat 11 384) f.data 3 0 (by decide) (by omega)
  have hb := bytes_pack (BitVec.ofNat 11 384) (BitVec.ofNat 8 (value.toNat / 256)) (BitVec.ofNat 8 value.toNat) status 0 0 0 0 0
  have ef : ({ id := BitVec.ofNat 11 384, len := 8, data := f.data } : RxFrame) = f := by rw [e]
  rw [ef] at hk
  simp only [] at hb
  rw [← e] at hb
  unfold commandOfChassisFrame
  rw [hk.2.1, hk.2.2.1, hk.1, word_of f 0 value hb.1 hb.2.1, hb.2.2.1]
  rfl

theorem tyre_frame (ident : BitVec 32) (pressure : BitVec 16) (temperature flags : Byte) (f : RxFrame)
    (h : (Instr.tyreTelegram ident pressure temperature flags).chassisFrame = some f) :
    commandOfChassisFrame f = some (.tyreTelegram ident pressure temperature flags) := by
  have e : f = (⟨BitVec.ofNat 11 512, 8,
      packBytes [BitVec.ofNat 8 (ident.toNat / 16777216), BitVec.ofNat 8 (ident.toNat / 65536),
        BitVec.ofNat 8 (ident.toNat / 256), BitVec.ofNat 8 ident.toNat, BitVec.ofNat 8 (pressure.toNat / 256),
        BitVec.ofNat 8 pressure.toNat, temperature, flags]⟩ : RxFrame) := by
    simp only [Instr.chassisFrame, Option.some.injEq] at h
    rw [← h]
    rfl
  have hk := chassis_kind (BitVec.ofNat 11 512) f.data 4 0 (by decide) (by omega)
  have hb := bytes_pack (BitVec.ofNat 11 512) (BitVec.ofNat 8 (ident.toNat / 16777216)) (BitVec.ofNat 8 (ident.toNat / 65536))
    (BitVec.ofNat 8 (ident.toNat / 256)) (BitVec.ofNat 8 ident.toNat) (BitVec.ofNat 8 (pressure.toNat / 256))
    (BitVec.ofNat 8 pressure.toNat) temperature flags
  have ef : ({ id := BitVec.ofNat 11 512, len := 8, data := f.data } : RxFrame) = f := by rw [e]
  rw [ef] at hk
  simp only [] at hb
  rw [← e] at hb
  obtain ⟨b0, b1, b2, b3, b4, b5, b6, b7⟩ := hb
  have hi : BitVec.ofNat 32 ((f.word 0).toNat * 65536 + (f.word 2).toNat) = ident := by
    have := ident.isLt
    apply BitVec.eq_of_toNat_eq
    rw [RxFrame.word, RxFrame.word, b0, b1, b2, b3]
    simp only [BitVec.toNat_ofNat]
    omega
  unfold commandOfChassisFrame
  rw [hk.2.1, hk.2.2.1, hk.1]
  simp only []
  rw [hi, word_of f 4 pressure b4 b5, b6, b7]
  rfl

theorem reply_frame (node : BitVec 5) (pressure speed : BitVec 16) (fault : Byte) (f : RxFrame)
    (h : (Instr.modReply node pressure speed fault).chassisFrame = some f) :
    commandOfChassisFrame f = some (.modReply node pressure speed fault) := by
  have hn := node.isLt
  have e : f = (⟨BitVec.ofNat 11 (768 + node.toNat), 8,
      packBytes [BitVec.ofNat 8 (pressure.toNat / 256), BitVec.ofNat 8 pressure.toNat, BitVec.ofNat 8 (speed.toNat / 256),
        BitVec.ofNat 8 speed.toNat, fault, 0, 0, 0]⟩ : RxFrame) := by
    simp only [Instr.chassisFrame, Option.some.injEq] at h
    rw [← h, pack_fill _ 3 (by simp [be16])]
    rfl
  have hk := chassis_kind (BitVec.ofNat 11 (768 + node.toNat)) f.data 6 node.toNat
    (by simp only [BitVec.toNat_ofNat]; omega) (by omega)
  have hb := bytes_pack (BitVec.ofNat 11 (768 + node.toNat)) (BitVec.ofNat 8 (pressure.toNat / 256)) (BitVec.ofNat 8 pressure.toNat)
    (BitVec.ofNat 8 (speed.toNat / 256)) (BitVec.ofNat 8 speed.toNat) fault 0 0 0
  have ef : ({ id := BitVec.ofNat 11 (768 + node.toNat), len := 8, data := f.data } : RxFrame) = f := by rw [e]
  rw [ef] at hk
  simp only [] at hb
  rw [← e] at hb
  have hnode : f.node = node := BitVec.eq_of_toNat_eq hk.2.2.2
  unfold commandOfChassisFrame
  rw [hk.2.1, hk.2.2.1, hk.1, hnode, word_of f 0 pressure hb.1 hb.2.1, word_of f 2 speed hb.2.2.1 hb.2.2.2.1, hb.2.2.2.2.1]
  rfl

theorem valve_frame (node : BitVec 5) (position : Byte) (f : RxFrame)
    (h : (Instr.valveReply node position).chassisFrame = some f) : commandOfChassisFrame f = some (.valveReply node position) := by
  simp only [Instr.chassisFrame] at h
  split at h
  · next hn =>
    subst hn
    have e : f = (⟨BitVec.ofNat 11 1055, 8, packBytes [position, 0, 0, 0, 0, 0, 0, 0]⟩ : RxFrame) := by
      rw [← Option.some.inj h, pack_fill _ 7 (by simp)]
      rfl
    have hk := chassis_kind (BitVec.ofNat 11 1055) f.data 8 31 (by decide) (by omega)
    have hb := bytes_pack (BitVec.ofNat 11 1055) position 0 0 0 0 0 0 0
    have ef : ({ id := BitVec.ofNat 11 1055, len := 8, data := f.data } : RxFrame) = f := by rw [e]
    rw [ef] at hk
    simp only [] at hb
    rw [← e] at hb
    have hnode : f.node = 31 := BitVec.eq_of_toNat_eq hk.2.2.2
    unfold commandOfChassisFrame
    rw [hk.2.1, hk.2.2.1, hk.1, hb.1]
    simp only [hnode]
    rfl
  · cases h

/-! ## The cases -/

/-- A command that arrives as neither frame. -/
theorem unframed (i : Instr) (h1 : i.towFrame = none) (h2 : i.chassisFrame = none) : Statement i :=
  fun _ => ⟨fun f h => (by rw [h1] at h; cases h), fun f h => (by rw [h2] at h; cases h)⟩

/-- A command that arrives on the tow link. -/
theorem on_tow (i : Instr) (h1 : ∀ f, i.towFrame = some f → commandOfTowFrame f = i) (h2 : i.chassisFrame = none) : Statement i :=
  fun _ => ⟨h1, fun f h => (by rw [h2] at h; cases h)⟩

/-- A command that arrives on the chassis bus. -/
theorem on_chassis (i : Instr) (h1 : i.towFrame = none) (h2 : ∀ f, i.chassisFrame = some f → commandOfChassisFrame f = some i) :
    Statement i := fun _ => ⟨fun f h => (by rw [h1] at h; cases h), h2⟩

/-- A request. -/
theorem on_request (i : Instr) (code : Byte) (r : Request) (h0 : i.towFrame = some (Request.frame code r).arriving)
    (h1 : requestCommand code r = i) (h2 : i.chassisFrame = none) : Statement i :=
  on_tow i (fun f h => by rw [h0] at h; rw [← Option.some.inj h, request_frame, h1]) h2

/-- A code that is none of 11.2 is decoded to no request of 8.5. -/
theorem unknown_command (code : Byte) (r : Request) (h : unknownCode code = true) :
    requestCommand code r = .requestUnknown code r := by
  have h0 : code.toNat = 0 ∨ 23 < code.toNat := by
    rcases (Bool.or_eq_true _ _).mp h with h | h
    · left
      have : code = 0 := by simpa using h
      rw [this]; rfl
    · right; simpa using h
  unfold requestCommand
  split <;> first | omega | rfl

theorem powerOnReset (towPower : Bool) : Statement (.powerOnReset towPower) := unframed _ rfl rfl

theorem brownOutReset (towPower : Bool) : Statement (.brownOutReset towPower) := unframed _ rfl rfl

theorem restoreSlotRead : Statement .restoreSlotRead := unframed _ rfl rfl

theorem restoreEnd : Statement .restoreEnd := unframed _ rfl rfl

theorem towPowerLoss : Statement .towPowerLoss := unframed _ rfl rfl

theorem standbyTimerExpiry : Statement .standbyTimerExpiry := unframed _ rfl rfl

theorem towPowerReturn : Statement .towPowerReturn := unframed _ rfl rfl

theorem secondsTick : Statement .secondsTick := unframed _ rfl rfl

theorem statusTimerExpiry : Statement .statusTimerExpiry := unframed _ rfl rfl

theorem airSample (supply reservoir control : BitVec 16) (status : Byte) : Statement (.airSample supply reservoir control status) :=
  on_chassis _ rfl (air_frame supply reservoir control status)

theorem airSampleTimerExpiry : Statement .airSampleTimerExpiry := unframed _ rfl rfl

theorem demand (pressure : BitVec 16) (hop seq : BitVec 4) (speed : BitVec 16) : Statement (.demand pressure hop seq speed) :=
  on_tow _ (demand_frame pressure hop seq speed) rfl

theorem linkTimerExpiry : Statement .linkTimerExpiry := unframed _ rfl rfl

theorem valveReply (node : BitVec 5) (position : Byte) : Statement (.valveReply node position) :=
  on_chassis _ rfl (valve_frame node position)

theorem valvePollDue : Statement .valvePollDue := unframed _ rfl rfl

theorem valveTimerExpiry : Statement .valveTimerExpiry := unframed _ rfl rfl

theorem autoParkTimerExpiry : Statement .autoParkTimerExpiry := unframed _ rfl rfl

theorem releaseHoldTimerExpiry : Statement .releaseHoldTimerExpiry := unframed _ rfl rfl

theorem parkApply (r : Request) : Statement (.parkApply r) := on_request _ 2 r rfl rfl rfl

theorem parkRelease (r : Request) : Statement (.parkRelease r) := on_request _ 3 r rfl rfl rfl

theorem loadSample (axle : Byte) (bag : BitVec 16) (status : Byte) : Statement (.loadSample axle bag status) :=
  on_chassis _ rfl (load_frame axle bag status)

theorem staleTimerExpiry (axle : Fin 4) : Statement (.staleTimerExpiry axle) := unframed _ rfl rfl

theorem fallbackTimerExpiry (axle : Fin 4) : Statement (.fallbackTimerExpiry axle) := unframed _ rfl rfl

theorem chassisTxDone : Statement .chassisTxDone := unframed _ rfl rfl

theorem chassisTxAbandon : Statement .chassisTxAbandon := unframed _ rfl rfl

theorem refreshTimerExpiry (channel : Fin 6) : Statement (.refreshTimerExpiry channel) := unframed _ rfl rfl

theorem modReply (node : BitVec 5) (pressure speed : BitVec 16) (fault : Byte) : Statement (.modReply node pressure speed fault) :=
  on_chassis _ rfl (reply_frame node pressure speed fault)

theorem unmaskChannel (r : Request) : Statement (.unmaskChannel r) := on_request _ 14 r rfl rfl rfl

theorem readChannel (r : Request) : Statement (.readChannel r) := on_request _ 13 r rfl rfl rfl

theorem phaseTimerExpiry (train : Train) : Statement (.phaseTimerExpiry train) := unframed _ rfl rfl

theorem serviceActuate (r : Request) : Statement (.serviceActuate r) := on_request _ 15 r rfl rfl rfl

theorem serviceHoldTimerExpiry : Statement .serviceHoldTimerExpiry := unframed _ rfl rfl

theorem lateralSample (value : BitVec 16) (status : Byte) : Statement (.lateralSample value status) :=
  on_chassis _ rfl (lateral_frame value status)

theorem lateralTimerExpiry : Statement .lateralTimerExpiry := unframed _ rfl rfl

theorem holdTimerExpiry : Statement .holdTimerExpiry := unframed _ rfl rfl

theorem rampTimerExpiry : Statement .rampTimerExpiry := unframed _ rfl rfl

theorem lockoutTimerExpiry : Statement .lockoutTimerExpiry := unframed _ rfl rfl

theorem tyreTelegram (ident : BitVec 32) (pressure : BitVec 16) (temperature flags : Byte) : Statement (.tyreTelegram ident pressure temperature flags) :=
  on_chassis _ rfl (tyre_frame ident pressure temperature flags)

theorem repeatWindowEnd (entry : Fin 20) : Statement (.repeatWindowEnd entry) := unframed _ rfl rfl

theorem missingTimerExpiry (entry : Fin 20) : Statement (.missingTimerExpiry entry) := unframed _ rfl rfl

theorem learn (r : Request) : Statement (.learn r) := on_request _ 7 r rfl rfl rfl

theorem learnTimerExpiry : Statement .learnTimerExpiry := unframed _ rfl rfl

theorem assign (r : Request) : Statement (.assign r) := on_request _ 8 r rfl rfl rfl

theorem remove (r : Request) : Statement (.remove r) := on_request _ 9 r rfl rfl rfl

theorem exchange (r : Request) : Statement (.exchange r) := on_request _ 10 r rfl rfl rfl

theorem exchangeTimerExpiry : Statement .exchangeTimerExpiry := unframed _ rfl rfl

theorem readRegistry (r : Request) : Statement (.readRegistry r) := on_request _ 11 r rfl rfl rfl

theorem readTyre (r : Request) : Statement (.readTyre r) := on_request _ 12 r rfl rfl rfl

theorem tableWrite (w : TableWriteFrame) : Statement (.tableWrite w) := on_tow _ (fun f h => by rw [← Option.some.inj h]; exact table_frame w) rfl

theorem readTable (r : Request) : Statement (.readTable r) := on_request _ 4 r rfl rfl rfl

theorem discard (r : Request) : Statement (.discard r) := on_request _ 5 r rfl rfl rfl

theorem insert (r : Request) : Statement (.insert r) := on_request _ 6 r rfl rfl rfl

theorem requestUnknown (code : Byte) (r : Request) : Statement (.requestUnknown code r) :=
  fun h => on_request _ code r rfl (unknown_command code r h) rfl h

theorem requestNotReady (f : RearwardFrame) : Statement (.requestNotReady f) := unframed _ rfl rfl

theorem requestNotAddressed (f : RearwardFrame) : Statement (.requestNotAddressed f) := unframed _ rfl rfl

theorem towFrameDiscarded (f : RxFrame) : Statement (.towFrameDiscarded f) := fun h => by
  refine on_tow _ (fun g hg => ?_) rfl h
  have hd : f.towDiscardable = true := ((Bool.and_eq_true _ _).mp h).2
  rw [← Option.some.inj hg]
  unfold commandOfTowFrame
  unfold RxFrame.towDiscardable at hd
  rw [if_pos hd]

theorem rearFrame (f : RxFrame) : Statement (.rearFrame f) := unframed _ rfl rfl

theorem towTxDone : Statement .towTxDone := unframed _ rfl rfl

theorem towTxAbandon : Statement .towTxAbandon := unframed _ rfl rfl

theorem rearTxDone : Statement .rearTxDone := unframed _ rfl rfl

theorem rearTxAbandon : Statement .rearTxAbandon := unframed _ rfl rfl

theorem cancel (r : Request) : Statement (.cancel r) := on_request _ 23 r rfl rfl rfl

theorem identify (r : Request) : Statement (.identify r) := on_request _ 1 r rfl rfl rfl

theorem nextAlert (r : Request) : Statement (.nextAlert r) := on_request _ 16 r rfl rfl rfl

theorem ackAlert (r : Request) : Statement (.ackAlert r) := on_request _ 17 r rfl rfl rfl

theorem reset (r : Request) : Statement (.reset r) := on_request _ 21 r rfl rfl rfl

theorem clearCause (r : Request) : Statement (.clearCause r) := on_request _ 22 r rfl rfl rfl

theorem readRecordFirst (r : Request) : Statement (.readRecordFirst r) := on_request _ 18 r rfl rfl rfl

theorem readRecordNext (r : Request) : Statement (.readRecordNext r) := on_request _ 19 r rfl rfl rfl

theorem eraseStore (r : Request) : Statement (.eraseStore r) := on_request _ 20 r rfl rfl rfl

theorem eraseEnd : Statement .eraseEnd := unframed _ rfl rfl

theorem recordSlotWritten (readBack : Option SlotBytes) : Statement (.recordSlotWritten readBack) := unframed _ rfl rfl

end Sys2Proof.Laws.Framed
end

