-- ==== Sys2Proof/Safety.lean ====
section
/-! DEFINITION. The vocabulary of the statements: what an event's closing work may touch, what a requester sees on the tow link, and the
invariants of the part. -/

namespace Sys2Proof.Machine

/-! ## What the closing work of an event leaves

The closing work of an event (settling, the chassis bus transmitter, alerts, the write queue) may touch a few fields of a block; a `core` is
the block with those fields blanked, so that equal cores say that every other field is unchanged. -/

/-- All but the valve operation and the auto-park timer. -/
def Asv.core (a : Asv) : Asv := { a with valveOp := none, autoParkTimer := none }

/-- All but the held slots of INSERT and SERVICE_ACTUATE. -/
def Lru.core (l : Lru) : Lru := { l with slotInsert := none, slotService := none }

/-- All but what answers and ALERT frames touch: the forward queue, the tow transmitter and the forward overflow count. -/
def Lru.rearPart (l : Lru) : Lru := { l with forwardQueue := [], towTx := none, forwardOverflows := 0 }

/-- All but the alert records, the lamp, the alert line and the configured mark. -/
def Apu.core (a : Apu) : Apu :=
  { a with alerts := Vector.replicate 23 {}, lamp := false, alertLine := false, configured := false }

/-- All but the write queue, the write in progress, the write position and the drop count. -/
def Rst.core (x : Rst) : Rst := { x with queue := [], writing := none, writePos := 0, drops := 0 }

/-- All but the ratio and the target. -/
def LoadRecord.core (r : LoadRecord) : LoadRecord := { r with ratio := 0, target := none }

/-- All but k, the thresholds and the hold timer. -/
def Rou.core (r : Rou) : Rou := { r with k := 0, aTab := 0, aLim := 0, watchT := 0, probeT := 0, exitT := 0, holdTimer := none }

/-- All but the deflated count. -/
def Twu.core (x : Twu) : Twu := { x with deflated := 0 }

/-- All but the computed command and the request flag. -/
def Channel.core (ch : Channel) : Channel := { ch with command := none, request := false }

/-- R14, R57: what the closing work may do to a valve operation: nothing, or the sending of its first command. -/
def valveFollows (clock : Nat) (before after : Option ValveOp) : Prop :=
  after = before ∨
    ∃ op, before = some op ∧ op.phase = .pending ∧
      after = some { op with phase := .sent, valveTimer := some { length := valveMs, since := clock } }

/-- R174: an alert record once its condition has been handed on as holding or as ended: a change of the flag clears the acknowledged mark, and
without one nothing changes. -/
def AlertRecord.handed (r : AlertRecord) (holds : Bool) : AlertRecord := if r.flag = holds then r else { flag := holds, ack := false }

/-- R174: the state once every condition has been handed on as it holds. -/
def State.handedOn (s : State) : State :=
  { s with apu := { s.apu with
      alerts := Vector.ofFn fun k =>
        match s.conditions.find? fun c => decide (c.1.index = k) with
        | some c => (s.apu.alerts[k]).handed c.2
        | none => s.apu.alerts[k] } }

/-- What the closing work and the sending of an event's frames leave in every case. -/
structure State.Keeps (s t : State) : Prop where
  asv : t.asv.core = s.asv.core
  valve : valveFollows s.clock s.asv.valveOp t.asv.valveOp
  lru : t.lru.core.rearPart = s.lru.core.rearPart
  apu : t.apu.core = s.apu.core
  rst : t.rst.core = s.rst.core
  foreign : t.twu.foreign = s.twu.foreign
  repeats : t.twu.repeats = s.twu.repeats
  invalid : t.twu.invalid = s.twu.invalid
  clock : t.clock = s.clock
  pending : t.pending = s.pending
  events : ∀ k : Fin 23, isEventAlert k = true → s.apu.alerts[k].flag = true → t.apu.alerts[k].flag = true
  acks : ∀ k : Fin 23, isEventAlert k = false → t.apu.alerts[k].ack = true → s.apu.alerts[k].ack = true

/-- What they leave besides when no held insert is performed. -/
structure State.Stays (s t : State) : Prop where
  configured : t.apu.configured = s.apu.configured
  tbu : t.tbu = s.tbu
  twu : t.twu.core = s.twu.core
  rou : t.rou.core = s.rou.core
  axles : ∀ a : Fin 4, t.lap.axles[a].core = s.lap.axles[a].core
  trainA : t.wcu.trainA = s.wcu.trainA

/-- What they leave besides when moreover no service actuation is held or runs. -/
structure State.Rests (s t : State) : Prop where
  trainB : t.wcu.trainB = s.wcu.trainB
  service : t.wcu.service = s.wcu.service
  lru : t.lru.rearPart = s.lru.rearPart

/-- R190: the store as it stands when the write of what waits has begun, if it can begin. -/
def Rst.begun (x : Rst) : Rst :=
  match x.writing, x.erase, x.restore, x.queue with
  | none, none, none, r :: rest => ({ x with queue := rest }).takeSlots r
  | _, _, _, _ => x

/-- R57: the chassis bus transmitter takes nothing: it is busy, or halted by restore or by the power state. -/
def State.BusHalted (s : State) : Prop := s.wcu.tx.isSome = true ∨ s.restoring = true ∨ s.apu.power ≠ .run

/-- R67, R68: a channel's record once output has become suspended or has resumed as D_eff and the power state now say. -/
def State.channelFollows (s : State) (c : Fin 6) : Channel :=
  let ch := s.wcu.channels[c]
  if s.outputSuspended then
    (if s.wcu.suspended then ch else { ch with request := false, awaiting := false, refreshTimer := none, lastReply := none })
  else if s.wcu.suspended then { ch with request := ch.request || s.channelUsable c }
  else ch

/-- R14, R57, 11.1, 11.4: the VALVE_COMMAND frame of a kind. -/
def valveCommand (k : ValveKind) : CanFrame := { id := chassisId 7 31, data := packBytes [k.code] }

/-- R55: a computed command raises the request of a channel: it is present and unmasked, output is not suspended, and the command differs from
the last sent one by at least the deadband, or is 0 after one that was not. -/
def State.raises (s : State) (c : Fin 6) (command : Option Nat) : Prop :=
  let last := s.wcu.channels[c].lastSent
  (s.channelEntry c).present = true ∧ s.wcu.channels[c].mask = none ∧ s.outputSuspended = false ∧
    ∃ p, command = some p ∧
      ((p ≠ last ∧ s.tbu.active.channel.deadband ≤ ((p : Int) - last).natAbs) ∨ (p = 0 ∧ last ≠ 0))

/-- R55, R67, R68: `m` are the channels once the computed commands of the event have been formed: each follows the suspension of output, and its
request is set exactly when it was raised before or R55 raises it. -/
def State.Raised (s : State) (m : Vector Channel 6) : Prop :=
  ∀ c : Fin 6, m[c].core = (s.channelFollows c).core ∧
    (m[c].request = true ↔ (s.channelFollows c).request = true ∨ s.raises c m[c].command)

/-- R58: the pending channel that the priority mode chooses, with the ranking after it. -/
def State.chooses (s : State) (m : Vector Channel 6) (c : Fin 6) (ranking : List (Fin 6)) : Prop :=
  m[c].request = true ∧
    match s.tbu.active.channel.mode with
    | .fixed => ranking = s.wcu.ranking ∧ ∀ d : Fin 6, d < c → m[d].request = false
    | .rotating =>
      ∃ before after, s.wcu.ranking = before ++ c :: after ∧ c ∉ after ∧ (∀ d ∈ before, m[d].request = false) ∧
        ranking = before ++ after ++ [c]

/-- R57, R61, 11.4: the sending of a channel's MOD_COMMAND with pressure p and the miss test; at the third miss the channel is masked (R62). -/
def State.channelSent (s : State) (c : Fin 6) (p : Nat) (ranking : List (Fin 6)) : State :=
  let ch := s.wcu.channels[c]
  let misses := if ch.awaiting then ch.missCount + 1 else ch.missCount
  let sent : Channel :=
    { ch with
      lastSent := p, request := false, refreshTimer := some { length := s.tbu.active.channel.refresh, since := s.clock },
      missCount := misses, awaiting := true }
  let record : Channel :=
    if 3 ≤ misses then { sent with mask := some .lost, request := false, awaiting := false, refreshTimer := none } else sent
  { s with wcu := { s.wcu with
      channels := s.wcu.channels.set c record, ranking := ranking,
      tx := some
        { id := chassisId 5 s.tbu.active.channel.entries[c].node,
          data := packBytes [BitVec.ofNat 8 (p / 256), BitVec.ofNat 8 p] } } }

/-- The state with its channels as the event's commands have left them. -/
def State.withChannels (s : State) (m : Vector Channel 6) : State :=
  { s with wcu := { s.wcu with channels := m, suspended := s.outputSuspended } }

/-- R67, R73: a service actuation of a channel runs, or is held, so that the event may start it. -/
def State.mayActuate (s : State) (c : Fin 6) : Prop :=
  (∃ tag, s.wcu.service = .running tag c) ∨ ∃ tag a timer, s.wcu.service = .held tag a timer ∧ a.channel = c

/-- R55, R57, R58, R61, R67: what a chassis bus transmitter that is free makes of `s` when no valve command waits: nothing when no request is set,
and otherwise the sending of the chosen channel's command, after which a channel masked by the miss test may change the other commands. A channel
without a command sends 0 while PARKED, unless a service actuation of it runs, and else a free pressure (notes/assumptions/4.md); one that has a
command sends it (damaged tables: notes/assumptions/47.md and 48.md). -/
def State.SendsChannel (s t : State) : Prop :=
  ∃ m : Vector Channel 6, s.Raised m ∧
    ((∀ c : Fin 6, m[c].request = false) → t.wcu.tx = none ∧ t.wcu.ranking = s.wcu.ranking ∧ t.wcu.channels = m) ∧
    ∀ (c : Fin 6) (ranking : List (Fin 6)), s.chooses m c ranking →
      ∃ p, (m[c].command = some p ∨ (m[c].command = none ∧ p ≤ 1000 ∧ (s.asv.supply = .parked → p = 0 ∨ s.mayActuate c))) ∧
        let sent := (s.withChannels m).channelSent c p ranking
        t.wcu.tx = sent.wcu.tx ∧ t.wcu.ranking = ranking ∧ sent.Raised t.wcu.channels ∧
          (sent.wcu.channels[c].missCount < 3 → t.wcu.channels = sent.wcu.channels)

/-- No request waits that the closing work of an event could start or perform: no insert is held, no service actuation is held or
runs. -/
def State.Calm (s : State) : Prop := s.tbu.heldInsert = none ∧ s.wcu.service = .none

/-- R74: a service actuation runs and nothing of the event ends it: no insert is held, its channel is unmasked and cannot be masked by a
sending, and the speed, D_eff, the supply state and the rollover unit let it run. -/
def State.Steadily (s : State) : Prop :=
  s.tbu.heldInsert = none ∧ s.BusHalted ∧ s.wcu.suspended = s.outputSuspended ∧ s.wcu.refSpeed = s.referenceSpeed ∧
    ∃ tag c, s.wcu.service = .running tag c ∧ s.wcu.channels[c].mask = none ∧ s.wcu.refSpeed ≤ 20 ∧ s.asv.dEff = some 0 ∧
      s.asv.supply ≠ .emergency ∧ s.rou.state.idle = true

/-- No held insert is performed in the event: none is held, or it is held still. -/
def State.NotReleased (s t : State) : Prop := s.tbu.heldInsert = none ∨ t.tbu.heldInsert = s.tbu.heldInsert

/-- The frames on their way forward, the one on the link first. -/
def State.towFrames (s : State) : List CanFrame := (s.lru.towTx.toList ++ s.lru.forwardQueue).map (·.frame)

/-- R166, R172: what an event leaves of the frames on their way forward: all of them, before its own. Outside RUN nothing joins them; a drop is
counted and sets RELAY_OVERFLOW, and nothing else sets it. -/
structure State.Forwards (s t : State) : Prop where
  frames : s.towFrames <+: t.towFrames
  quiet : s.apu.power ≠ .run → t.towFrames = s.towFrames ∧ t.lru.forwardOverflows = s.lru.forwardOverflows
  counts : s.lru.forwardOverflows ≤ 65535 →
    s.lru.forwardOverflows ≤ t.lru.forwardOverflows ∧ t.lru.forwardOverflows ≤ 65535
  dropped : t.lru.forwardOverflows ≠ s.lru.forwardOverflows → t.apu.alerts[AlertKind.relayOverflow.index].flag = true
  occurs : t.apu.alerts[AlertKind.relayOverflow.index].flag = true → s.apu.alerts[AlertKind.relayOverflow.index].flag = true ∨
    t.lru.forwardOverflows ≠ s.lru.forwardOverflows ∨ 65535 ≤ s.lru.forwardOverflows

/-- A timer of a length that starts as the state stands. -/
def State.starting (s : State) (ms : Nat) : Timer := some { length := ms, since := s.clock }

/-- R92 test 3, R93: the hold timer once the last sample has been tested against an exit threshold: stopped at or above it, and running below it,
started now unless it runs already. -/
def State.holdAgainst (s : State) (exitT : Nat) : Timer :=
  if exitT ≤ s.rou.lastSample.natAbs then none
  else if s.rou.holdTimer.isSome then s.rou.holdTimer
  else s.starting s.tbu.active.roll.hold

/-- R82, R93: what re-forming the thresholds leaves of the hold timer. A change of the total load or of k in INTERVENE tests it against the new
exit threshold, and otherwise it stays; a change of both tests it twice, which may stop it and start it anew. -/
def State.HoldFollows (s t : State) : Prop :=
  if s.rou.state = .intervene ∧ (t.lap.totalLoad ≠ s.lap.totalLoad ∨ t.rou.k ≠ s.rou.k) then
    t.rou.holdTimer = s.holdAgainst t.rou.exitT ∨
      (t.lap.totalLoad ≠ s.lap.totalLoad ∧ t.rou.k ≠ s.rou.k ∧ s.rou.lastSample.natAbs < t.rou.exitT ∧
        t.rou.holdTimer = s.starting s.tbu.active.roll.hold)
  else t.rou.holdTimer = s.rou.holdTimer

/-- `t` is what the closing work of an event may make of `s`, the state that the event's own effect leaves. -/
structure State.ClosesTo (s t : State) : Prop where
  keeps : s.Keeps t
  stays : s.NotReleased t → s.Stays t
  rests : s.Calm → s.Rests t
  runs : s.Steadily → s.Rests t
  records : s.NotReleased t → t.rst = s.rst.begun
  halted : s.BusHalted → t.wcu.tx = s.wcu.tx ∧ t.wcu.pendingValve = s.wcu.pendingValve
  channels : s.NotReleased t → s.BusHalted ∨ s.wcu.pendingValve ≠ none →
    s.Raised t.wcu.channels ∧ t.wcu.ranking = s.wcu.ranking
  channelSent : s.NotReleased t → ¬s.BusHalted → s.wcu.pendingValve = none → s.SendsChannel t ∧ t.wcu.pendingValve = none
  forwards : s.Forwards t
  conditions : s.NotReleased t → ∀ (k : AlertKind) (before after : Bool), (k, before) ∈ s.conditions → (k, after) ∈ t.conditions →
    t.apu.alerts[k.index] = ((s.apu.alerts[k.index]).handed before).handed after
  occurrences : ∀ k : Fin 23, isEventAlert k = true → k ≠ AlertKind.relayOverflow.index →
    k ≠ AlertKind.tableInsertFailed.index ∨ s.NotReleased t → t.apu.alerts[k].flag = s.apu.alerts[k].flag
  valveSent : ¬s.BusHalted → ∀ k, s.wcu.pendingValve = some k → t.wcu.tx = some (valveCommand k) ∧ t.wcu.pendingValve = none
  hold : s.NotReleased t → s.HoldFollows t
  holdReleased : s.rou.state ≠ .intervene → t.rou.holdTimer = s.rou.holdTimer ∨ t.rou.holdTimer = none

/-- `E` with the hold timer that `t` has where `s`, the state before the event, is in INTERVENE. An insertion, the return to RUN and the end of
restore re-form the thresholds whatever has changed, which in INTERVENE tests the hold timer (R82, R93); no run finds one of them there (R105,
R106, R107). -/
def State.holdAs (E s t : State) : State :=
  if s.rou.state = .intervene then { E with rou := { E.rou with holdTimer := t.rou.holdTimer } } else E

/-! ## The tow link as a requester sees it -/

/-- A RESPONSE frame (11.2). -/
def response (position : Nat) (tag : Tag) (result : Result) (reason : Reason) (data : List Byte) : CanFrame :=
  { id := linkId 8 position, data := packBytes (tag :: result.code :: reason.code :: data.take 5) }

/-- R168, 11.2: a CONTINUATION frame. -/
def continuation (position : Nat) (tag : Tag) (segment : Nat) (data : List Byte) : CanFrame :=
  { id := linkId 9 position, data := packBytes (tag :: BitVec.ofNat 8 segment :: data) }

/-- R168: the frames of an answer. -/
def answerFrames (position : Nat) (tag : Tag) (result : Result) (data : List Byte) : List CanFrame :=
  (Answer.frames position { tag := tag, result := result, data := data }).map (·.frame)

/-- R177, 11.2: an ALERT frame. -/
def alertFrame (position : Nat) (k : Fin 23) (set : Bool) : CanFrame := (Notice.frame position { kind := k, set := set }).frame

/-- The forward queue has room for `n` frames. -/
def State.roomForward (s : State) (n : Nat) : Prop := s.lru.forwardQueue.length + n ≤ forwardCapacity

/-- `t` sends the frames `fs` after those of `s`, before anything else the event sends. -/
def State.Sends (s t : State) (fs : List CanFrame) : Prop := s.towFrames ++ fs <+: t.towFrames

/-- `t` is `s` but for the forward queue and the tow transmitter. -/
def State.SameButTow (s t : State) : Prop :=
  { t with lru := { t.lru with forwardQueue := s.lru.forwardQueue, towTx := s.lru.towTx } } = s

/-- `t` is `s` with the frames `fs` on their way forward after those of `s`, and nothing else. -/
def State.Answers (s t : State) (fs : List CanFrame) : Prop := t.towFrames = s.towFrames ++ fs ∧ s.SameButTow t

/-- R164, R165, R172: a request of a target is taken and decided, and nothing is queued rearward: in RUN, after restore, at the part's
position or as a broadcast to a part without a position. -/
def State.Serves (s : State) (target : BitVec 4) : Prop :=
  s.apu.power = .run ∧ s.rst.restore = none ∧ handling s.lru.position target.toNat = .take

/-- `t` is what the handing on of the conditions, the beginning of a write and the sending of the event's frames make of `s`, the state that
the event's own effect leaves, where no block has anything to re-form. -/
structure State.HandsTo (s t : State) : Prop where
  asv : t.asv = s.asv
  lap : t.lap = s.lap
  wcu : t.wcu = s.wcu
  rou : t.rou = s.rou
  twu : t.twu = s.twu
  tbu : t.tbu = s.tbu
  lru : t.lru.rearPart = s.lru.rearPart
  apu : t.apu.core = s.apu.core
  configured : t.apu.configured = s.apu.configured
  events : ∀ k : Fin 23, isEventAlert k = true → s.apu.alerts[k].flag = true → t.apu.alerts[k].flag = true
  occurrences : ∀ k : Fin 23, isEventAlert k = true → k ≠ AlertKind.relayOverflow.index → t.apu.alerts[k] = s.apu.alerts[k]
  conditions : ∀ c ∈ t.conditions, t.apu.alerts[c.1.index] = (s.apu.alerts[c.1.index]).handed c.2
  forwards : s.Forwards t
  rst : t.rst = s.rst.begun
  clock : t.clock = s.clock
  pending : t.pending = s.pending

/-! ## Resets -/

/-- R24, R51, R71, R77, R107, R129, R143, R159, R173, R183, R184, R185, R196: the part after a reset with tow power as given and the reset
cause register as given; every field is written out. The trains' parameters, the thresholds and the tables of both copies before restore has
ended are the model's choice (notes/assumptions/6.md). -/
def State.afterReset (s : State) (towPower : Bool) (cause : ResetCause) : State :=
  { asv :=
      { supply := .undetermined, breakaway := false, fallen := false, lastAir := none, airTimer := none, airLost := false,
        link := .unlinked, lastSeq := none, goodRun := 0, lastDemand := none, towSpeed := none, linkTimer := none, linkLost := false,
        staleCount := 0, lostCount := 0, valveOp := none, heldRelease := none, autoParkTimer := none, dEff := none },
    lap :=
      { axles := Vector.replicate 4
          { bag := none, lRaw := none, lF := none, status := .unknown, takeWhole := true, silent := false, staleTimer := none,
            fallbackTimer := none, ratio := 1000, target := none },
        held := true, totalLoad := 0, brakeActive := true },
    wcu :=
      { wheels := Vector.replicate 8 { cap := 1000, w := none, i := 0, s := 0, f := none },
        channels := Vector.replicate 6
          { command := none, lastSent := 0, request := false, mask := none, awaiting := false, missCount := 0, lastReply := none,
            refreshTimer := none },
        trainA :=
          { targets := Vector.replicate 6 false, pressure := 0, pulse := 0, base := 0, count := 0, phase := .off, armed := false,
            rep := false, terminal := false, timer := none },
        trainB :=
          { targets := Vector.replicate 6 false, pressure := 0, pulse := 0, base := 0, count := 0, phase := .off, armed := false,
            rep := false, terminal := false, timer := none },
        service := .none, ranking := [0, 1, 2, 3, 4, 5], pendingValve := none, tx := none, refSpeed := 0, suspended := true },
    rou :=
      { state := .quiet, lastSample := 0, sign := .positive, goodCount := 0, sensorMark := false, probeDone := false, aTab := 400,
        aLim := 400, k := 0, watchT := 280, probeT := 340, exitT := 240, pressures := Vector.replicate 8 0,
        lifted := Vector.replicate 8 false, episode := none, lateralTimer := none, holdTimer := none, rampTimer := none,
        lockoutTimer := none, sensorLost := false },
    twu := { entries := Vector.replicate 20 none, foreign := 0, repeats := 0, invalid := 0, deflated := 0, learn := none, half := none },
    tbu := { active := Tables.factory, shadow := Tables.factory, differs := false, heldInsert := none },
    lru :=
      { position := 0, demandSlot := none, rearQueue := [], forwardQueue := [], rearTx := none, towTx := none, slotRelease := none,
        slotInsert := none, slotService := none, towDiscards := 0, rearDiscards := 0, rearOverflows := 0, forwardOverflows := 0,
        tooLong := false },
    apu :=
      { alerts := Vector.replicate 23 { flag := false, ack := false }, lamp := false, alertLine := false, statusTimer := none,
        configured := false, power := if towPower then .run else .standby, towPower := towPower, standbyTimer := none, cause := cause,
        seconds := 0, resetPending := false },
    rst :=
      { memory := s.rst.memory, writePos := s.rst.memory.writePosition, queue := [], writing := none, erase := none,
        cursor := { slot := 0, kind := none, passed := false }, drops := 0,
        restore := some { next := 0, skipTo := 0, candidates := Tables.factory } },
    clock := s.clock, pending := s.pending }

/-! ## Invariants -/

/-- 10.1: the store's bytes are in their canonical form. -/
def State.StoreWf (s : State) : Prop := Memory.wf s.rst.memory

/-- 8.1, R166: no queue of the links is longer than its capacity. -/
def State.QueuesBounded (s : State) : Prop :=
  s.lru.forwardQueue.length ≤ forwardCapacity ∧ s.lru.rearQueue.length ≤ rearCapacity

/-- R130: no identifier and no binding is held by two registry entries. -/
def State.RegistryUnique (s : State) : Prop :=
  ∀ (i j : Fin 20) (b c : Bound), s.twu.entries[i] = some b → s.twu.entries[j] = some c →
    b.ident = c.ident ∨ b.binding = c.binding → i = j

/-- R174, R175: an acknowledged mark stands only beside the set flag of a condition alert. -/
def State.AcksHaveFlags (s : State) : Prop :=
  ∀ k : Fin 23, s.apu.alerts[k].ack = true → s.apu.alerts[k].flag = true ∧ isEventAlert k = false

/-- R176: the lamp request and the alert line are what the alert records say. -/
def State.LampFollows (s : State) : Prop :=
  s.apu.lamp = s.lampRequest ∧ s.apu.alertLine = (s.lampRequest && s.apu.power != .sleep)

/-- R44, R45, R29: the brake activity flag and the load hold are what their causes say. -/
def State.ActivityFollows (s : State) : Prop :=
  s.lap.brakeActive = s.brakeActivity ∧ s.lap.held = (s.brakeActivity || s.rou.state.holdsLoad)

/-- R12, R13: D_eff is what its source and the supply state make it. -/
def State.DemandFollows (s : State) : Prop :=
  s.asv.dEff = effectiveDemand s.asv.supply (demandSource s.asv) s.tbu.active.supply.emergencyDemand

/-- R24, R51, R69 to R72, R107, R129, R143, R159, R173, R185, R196: while restore runs, the blocks stand as the reset left them, but for what
frames and requests may change during restore: air samples, demands, the position, the queues, the registry's bindings and alerts. -/
structure State.AsResetLeft (s : State) : Prop where
  asv : s.asv.supply = .undetermined ∧ s.asv.breakaway = false ∧ s.asv.fallen = false ∧ s.asv.airTimer = none ∧ s.asv.airLost = false ∧
    s.asv.valveOp = none ∧ s.asv.heldRelease = none ∧ s.asv.autoParkTimer = none
  lap : (∀ a : Fin 4, s.lap.axles[a].core = LoadRecord.core {}) ∧ s.lap.totalLoad = 0
  trains : s.wcu.trainA = {} ∧ s.wcu.trainB = {} ∧ s.wcu.service = .none
  bus : s.wcu.pendingValve = none ∧ s.wcu.tx = none ∧ s.wcu.ranking = [0, 1, 2, 3, 4, 5] ∧ s.wcu.suspended = true
  channels : ∀ c : Fin 6, s.wcu.channels[c] = {}
  rou : s.rou = {}
  readings : ∀ (i : Fin 20) (b : Bound), s.twu.entries[i] = some b → b.reading = {}
  twu : s.twu.foreign = 0 ∧ s.twu.repeats = 0 ∧ s.twu.invalid = 0 ∧ s.twu.deflated = 0 ∧ s.twu.learn = none ∧ s.twu.half = none
  tbu : s.tbu = {}
  slots : s.lru.slotRelease = none ∧ s.lru.slotInsert = none ∧ s.lru.slotService = none
  apu : s.apu.statusTimer = none ∧ s.apu.configured = false ∧ s.apu.power ≠ .sleep ∧ s.apu.standbyTimer = none ∧
    s.apu.resetPending = false
  rst : s.rst.queue = [] ∧ s.rst.writing = none ∧ s.rst.erase = none ∧ s.rst.cursor = {} ∧ s.rst.drops = 0

/-- While restore runs the blocks stand as the reset left them. -/
def State.RestoreFresh (s : State) : Prop := s.restoring = true → s.AsResetLeft

/-- R36, R38, R39: a present axle's ratio is its load ratio and its target is formed from D_eff; an absent axle's target is 0, and not yet
formed right after a reset (notes/assumptions/23.md). -/
def State.TargetsFollow (s : State) : Prop :=
  ∀ a : Fin 4,
    if s.tbu.active.axle[a].present = true then
      s.lap.axles[a].ratio = loadRatio s.tbu.active.axle[a] s.lap.axles[a] ∧
        s.lap.axles[a].target = s.asv.dEff.map fun d => axleTarget d s.lap.axles[a].ratio s.tbu.active.axle[a].p0
    else s.lap.axles[a].target = some 0 ∨ (s.restoring = true ∧ s.lap.axles[a].target = none)

/-- R41, R52, R53, R71: every wheel end's cap, W, I, S and F are what they are formed from. -/
def State.WheelsFollow (s : State) : Prop :=
  ∀ w : Fin 8,
    s.wcu.wheels[w].cap = s.tyreCap w ∧
      s.wcu.wheels[w].w = (s.lap.axles[wheelAxle w].target.map fun t => min t s.wcu.wheels[w].cap) ∧
      s.wcu.wheels[w].i = s.rolloverContribution w ∧ s.wcu.wheels[w].s = s.trainContribution s.wcu.trainB w ∧
      s.wcu.wheels[w].f = s.wcu.wheels[w].w.map fun p =>
        min (max (max p (if s.asv.supply = .parked then 0 else s.wcu.wheels[w].i)) s.wcu.wheels[w].s) s.wcu.wheels[w].cap

/-- R54: every computed command is the least final pressure of the channel's wheel ends, and undefined when one of them is or when there
is none. -/
def State.CommandsFollow (s : State) : Prop :=
  ∀ c : Fin 6,
    match s.wcu.channels[c].command with
    | some p => (∃ w : Fin 8, (s.channelEntry c).serves w = true ∧ s.wcu.wheels[w].f = some p) ∧
        ∀ w : Fin 8, (s.channelEntry c).serves w = true → ∃ q, s.wcu.wheels[w].f = some q ∧ p ≤ q
    | none => (∃ w : Fin 8, (s.channelEntry c).serves w = true ∧ s.wcu.wheels[w].f = none) ∨
        ∀ w : Fin 8, (s.channelEntry c).serves w = false

/-- R42, R80, R81, R82: the total load and the rollover thresholds are what they are formed from. -/
def State.ThresholdsFollow (s : State) : Prop :=
  s.lap.totalLoad = totalLoadOf s.tbu.active.axle s.lap.axles ∧
    s.rou.aTab = tabledThreshold s.tbu.active.roll s.lap.totalLoad ∧
    s.rou.aLim = max s.tbu.active.roll.aFloor (s.rou.aTab * (1000 - s.rou.k * s.tbu.active.roll.step) / 1000) ∧
    s.rou.watchT = s.rou.aLim * s.tbu.active.roll.watch / 1000 ∧ s.rou.probeT = s.rou.aLim * s.tbu.active.roll.probe / 1000 ∧
    s.rou.exitT = s.rou.aLim * s.tbu.active.roll.exit / 1000

/-- R121, R81: the deflated count counts the tyre positions that count as deflated, and k is the count up to 4. -/
def State.DeflationFollows (s : State) : Prop := s.twu.deflated = s.deflatedCount ∧ s.rou.k = min 4 s.twu.deflated

/-- R66: the reference speed is the floor of the mean wheel speed of the contributing channels, or the fallback. -/
def State.SpeedFollows (s : State) : Prop :=
  s.wcu.refSpeed =
    if s.speeds = [] then (if s.asv.link = .linked then s.asv.towSpeed.getD 0 else 0) else s.speeds.sum / s.speeds.length

/-- 3.6: output is suspended exactly during restore, outside RUN and while D_eff is undefined. -/
def State.SuspensionFollows (s : State) : Prop :=
  s.wcu.suspended = true ↔ s.restoring = true ∨ s.apu.power ≠ .run ∨ s.asv.dEff = none

/-- R17: the auto-park timer runs exactly in EMERGENCY in RUN while the vehicle is stationary and no APPLY operation is in progress. -/
def State.AutoParkFollows (s : State) : Prop :=
  s.asv.autoParkTimer.isSome = true ↔
    s.asv.supply = .emergency ∧ s.wcu.refSpeed ≤ 20 ∧ s.apu.power = .run ∧ ∀ op, s.asv.valveOp = some op → op.kind ≠ .apply

/-- R174, 9.1: the flag of every condition alert says whether its condition holds. -/
def State.AlertsFollow (s : State) : Prop := ∀ c ∈ s.conditions, s.apu.alerts[c.1.index].flag = c.2

/-- R177, R166: where nothing was dropped from the forward queue, every change of the flag of an alert that is enabled and URGENT has queued
its ALERT frame, unless the part was reset. -/
def State.AlertsSent (s t : State) : Prop :=
  (∀ towPower cause, t ≠ { (s.afterReset towPower cause) with pending := t.pending }) → t.apu.power = .run →
    s.lru.forwardOverflows < 65535 → t.lru.forwardOverflows = s.lru.forwardOverflows →
      ∀ k : Fin 23, s.tbu.active.alert[k].enable = true → s.tbu.active.alert[k].urgent = true → t.tbu.active.alert[k].enable = true →
        t.tbu.active.alert[k].urgent = true → t.apu.alerts[k].flag ≠ s.apu.alerts[k].flag →
          alertFrame t.lru.position k t.apu.alerts[k].flag ∈ t.towFrames

/-- R93, R92: in INTERVENE a changed exit threshold tests the hold timer at once: at or above it the timer is stopped, and below it it runs, started
now unless it ran already. -/
def State.HoldRetested (s t : State) : Prop :=
  s.rou.state = .intervene → t.rou.state = .intervene → t.rou.exitT ≠ s.rou.exitT →
    t.rou.holdTimer =
      if t.rou.exitT ≤ t.rou.lastSample.natAbs then none
      else if s.rou.holdTimer.isSome then s.rou.holdTimer
      else some { length := t.tbu.active.roll.hold, since := s.clock }

/-- R17: an auto-park timer that runs is the one that ran, or has been started with the auto-park delay of the active SUPPLY table: none ran, or
the one that ran stopped within the event (a channel's masking changed the reference speed once more). -/
def State.AutoParkStarts (s t : State) : Prop :=
  ∀ r, t.asv.autoParkTimer = some r →
    s.asv.autoParkTimer = some r ∨
      (r = { length := t.tbu.active.supply.autoParkDelay * 1000, since := s.clock } ∧
        (s.asv.autoParkTimer = none ∨ ∃ c : Fin 6, s.wcu.channels[c].mask = none ∧ t.wcu.channels[c].mask ≠ none))

/-- 10.1, R188, R190, R195: the write position, the records that wait and the write in progress lie within the 1,024 slots. -/
structure State.StoreFits (s : State) : Prop where
  writePos : s.rst.writePos ≤ slotCount
  lengths : ∀ r ∈ s.rst.queue, 1 ≤ r.length ∧ r.length ≤ 9
  queue : s.rst.erase = none → s.rst.writePos + (s.rst.queue.map (·.length)).sum ≤ slotCount
  erasing : ∀ tag, s.rst.erase = some { tag := tag, phase := .erasing } → s.rst.writing = none
  rebase : ∀ tag n, s.rst.erase = some { tag := tag, phase := .rebasing n } → n ≤ 27 ∧ s.rst.writePos ≤ 9 * n
  room : s.rst.queue.length ≤ writeCapacity
  writing : ∀ j, s.rst.writing = some j →
    j.start + j.record.length ≤ s.rst.writePos ∧ 1 ≤ j.record.length ∧
      match j.stage with
      | .header => True
      | .data i => i < j.record.length
      | .valid => True
      | .supersede n => n < j.start

/-- R53: W(w) ≤ F(w) ≤ cap(w) on every wheel end, and F(w) is defined exactly while W(w) is. -/
def State.PressuresOrdered (s : State) : Prop :=
  ∀ w : Fin 8,
    match s.wcu.wheels[w].w, s.wcu.wheels[w].f with
    | some x, some y => x ≤ y ∧ y ≤ s.wcu.wheels[w].cap
    | none, none => True
    | _, _ => False

/-- R49, R172: outside RUN the demand slot and both queues are empty, no STATUS frame is due and no stale or fallback timer runs. -/
def State.QuietOutsideRun (s : State) : Prop :=
  s.apu.power ≠ .run →
    s.lru.demandSlot = none ∧ s.lru.rearQueue = [] ∧ s.lru.forwardQueue = [] ∧ s.apu.statusTimer = none ∧
      ∀ a : Fin 4, s.lap.axles[a].staleTimer = none ∧ s.lap.axles[a].fallbackTimer = none

/-- R169: the held-request slots hold the tags of what their owners hold. -/
def State.SlotsMatch (s : State) : Prop :=
  s.lru.slotRelease = s.asv.heldRelease.map (·.tag) ∧ s.lru.slotInsert = s.tbu.heldInsert ∧
    s.lru.slotService = (match s.wcu.service with | .held tag _ _ => some tag | _ => none)

/-- The invariants of what the blocks form from one another: each is kept by every step from a state in which all hold. -/
structure State.Sound (s : State) : Prop where
  fresh : s.RestoreFresh
  activity : s.ActivityFollows
  demand : s.DemandFollows
  targets : s.TargetsFollow
  wheels : s.WheelsFollow
  commands : s.CommandsFollow
  thresholds : s.ThresholdsFollow
  deflation : s.DeflationFollows
  speed : s.SpeedFollows
  suspension : s.SuspensionFollows
  autoPark : s.AutoParkFollows
  alerts : s.AlertsFollow
  acks : s.AcksHaveFlags
  lamp : s.LampFollows

/-! ## The rules' effects, as the statements say them -/

/-- R188: an event record is queued if it has what it needs, and dropped and counted otherwise. -/
def State.withEvent (s : State) (r : Record) : State :=
  { s with
    rst :=
      if s.rst.queue.length < 8 ∧ (s.rst.erase.isSome = true ∨ r.length ≤ 1024 - s.rst.writePos - (s.rst.queue.map (·.length)).sum) then
        { s.rst with queue := s.rst.queue ++ [r] }
      else { s.rst with drops := min 65535 (s.rst.drops + 1) } }

/-- R174: an event alert has occurred. -/
def State.withFlag (s : State) (k : AlertKind) : State :=
  { s with apu := { s.apu with alerts := s.apu.alerts.set k.index ((s.apu.alerts[k.index]).handed true) } }

/-- R176: an alert record replaced, the lamp request and the alert line formed again. -/
def State.withAlert (s : State) (k : Fin 23) (r : AlertRecord) : State :=
  let s1 : State := { s with apu := { s.apu with alerts := s.apu.alerts.set k r } }
  { s1 with apu := { s1.apu with lamp := s1.lampRequest, alertLine := s1.lampRequest && s1.apu.power != .sleep } }

/-- R14: a valve operation is started and its command waits for the transmitter. -/
def State.withValve (s : State) (kind : ValveKind) (requester : Option Tag) (auto : Bool) : State :=
  { s with
    asv := { s.asv with
      valveOp := some
        { kind := kind, requester := requester, phase := .pending, auto := auto, valveTimer := none, polls := [] } },
    wcu := { s.wcu with pendingValve := some kind } }

/-- D_eff formed again (R12, R13). -/
def State.withDemand (s : State) : State :=
  { s with asv := { s.asv with
      dEff := effectiveDemand s.asv.supply (demandSource s.asv) s.tbu.active.supply.emergencyDemand } }

/-- R10: entry into EMERGENCY. -/
def State.brokenAway (s : State) : State :=
  ({ s with asv := { s.asv with supply := .emergency, breakaway := true, fallen := false } } : State).withEvent
    (supplyRecord s .breakaway)

/-- R9, R10, R11: the supply state after a good air sample. -/
def supplyTest (t : SupplyTable) (x : AirSample) : SupplyState → SupplyState
  | .charging => if x.supply < t.emergency then .emergency else if t.ready ≤ x.reservoir then .ready else .charging
  | .ready => if x.supply < t.emergency then .emergency else if x.reservoir < t.ready then .charging else .ready
  | .emergency => if t.recovery ≤ x.supply then (if t.ready ≤ x.reservoir then .ready else .charging) else .emergency
  | .undetermined => .undetermined
  | .parked => .parked

/-- R1, R9, R10, R11: the supervisor once a good air sample has been stored and tested against the supply state; D_eff follows. -/
def State.airTested (s : State) (x : AirSample) : State :=
  let stored : State := { s with asv := { s.asv with
    lastAir := some x, airLost := false, airTimer := if s.restoring then s.asv.airTimer else some { length := 500, since := s.clock } } }
  let after := supplyTest s.tbu.active.supply x s.asv.supply
  let tested : State :=
    if after = .emergency ∧ s.asv.supply ≠ .emergency then stored.brokenAway
    else if after ≠ .emergency ∧ s.asv.supply = .emergency then
      ({ stored with asv := { stored.asv with supply := after, breakaway := false, fallen := false, autoParkTimer := none } } :
        State).withEvent (supplyRecord stored .recovered)
    else if after = s.asv.supply then stored
    else { stored with asv := { stored.asv with supply := after, fallen := decide (after = .charging) } }
  tested.withDemand

/-- R20: a held release whose conditions a good air sample meets in PARKED starts its RELEASE operation and leaves its slot. -/
def State.releaseTested (s : State) (x : AirSample) : State :=
  match s.asv.heldRelease with
  | some h =>
    if s.asv.supply = .parked ∧ s.tbu.active.supply.release ≤ x.reservoir ∧ s.tbu.active.supply.recovery ≤ x.supply then
      ({ s with asv := { s.asv with heldRelease := none }, lru := { s.lru with slotRelease := none } } : State).withValve .release
        (some h.tag) false
    else s
  | none => s

/-- R8: the supply state after a valve operation completes with RELEASED; D_eff follows. -/
def State.releasedTo (s : State) : State :=
  (match s.asv.lastAir with
   | some x =>
     if x.supply < s.tbu.active.supply.emergency then s.brokenAway
     else if s.tbu.active.supply.ready ≤ x.reservoir then { s with asv := { s.asv with supply := .ready, breakaway := false } }
     else { s with asv := { s.asv with supply := .charging, breakaway := false, fallen := false } }
   | none => { s with asv := { s.asv with supply := .charging, breakaway := false, fallen := false } }).withDemand

/-- R8, R17: the supply state after a valve operation completes with APPLIED; D_eff is 0 in PARKED. -/
def State.appliedTo (s : State) (auto : Bool) : State :=
  let parked : State := { s with asv := { s.asv with supply := .parked, fallen := false, autoParkTimer := none, dEff := some 0 } }
  if auto then parked.withEvent (supplyRecord parked .autoParked) else parked

/-- The answer of a completion to a requester, if there is one. -/
def completion (position : Nat) (tag : Option Tag) (r : Result) : List CanFrame :=
  tag.toList.map fun t => response position t r .noReason []

/-- R167: a request that is not taken. -/
def refusal (position : Nat) (tag : Tag) (r : Reason) : List CanFrame := [response position tag .refused r []]

/-! ## Pulse trains (R69, R70) -/

/-- R69: an armed train started; one that is not armed does not start. -/
def PulseTrain.started (t : PulseTrain) (targets : Vector Bool 6) (pressure count pulse : Nat) (rep : Bool) (clock : Nat) : PulseTrain :=
  if t.armed then
    { targets := targets, pressure := pressure, pulse := pulse, base := count, count := count, phase := .pulse, armed := true, rep := rep,
      terminal := false, timer := some { length := pulse, since := clock } }
  else t

/-- R71: a train stopped by its owner. -/
def PulseTrain.stopped (t : PulseTrain) : PulseTrain := { t with phase := .off, timer := none }

/-! ## The rollover unit (chapter 4) -/

/-- R83: the inner side. -/
def State.innerSide (s : State) : Side := if s.rou.sign = .positive then .left else .right

/-- R91: the intervention pressures by the current sign. -/
def State.sidePressures (s : State) : Vector Nat 8 :=
  Vector.ofFn fun w =>
    if s.tbu.active.axle[wheelAxle w].present then
      (if wheelSide w = s.innerSide then s.tbu.active.roll.inner else s.tbu.active.roll.outer)
    else 0

/-- R84, R85, R89: entry into WATCH arms train A. -/
def State.watching (s : State) : State :=
  { s with wcu := { s.wcu with trainA := { s.wcu.trainA with armed := true } }, rou := { s.rou with state := .watch } }

/-- R85, R87: entry into QUIET. -/
def State.quieted (s : State) : State := { s with rou := { s.rou with state := .quiet, probeDone := false } }

/-- Train A stopped by the rollover unit (R71). -/
def State.trainAStopped (s : State) : State := { s with wcu := { s.wcu with trainA := s.wcu.trainA.stopped } }

/-- R91, R102: entry into INTERVENE from WATCH or PROBE. -/
def State.intervened (s : State) (cause : EpisodeCause) : State :=
  ({ s with
    wcu := { s.wcu with trainA := s.wcu.trainA.stopped },
    rou := { s.rou with
      state := .intervene, holdTimer := none, probeDone := false, pressures := s.sidePressures,
      episode := some
        { entryTime := s.apu.seconds, cause := cause, totalLoad := s.lap.totalLoad, aLim := s.rou.aLim,
          peak := s.rou.lastSample.natAbs, speed := s.wcu.refSpeed, shadow := s.tbu.active.roll.shadow, start := s.clock } } } :
    State).withFlag .rollIntervention

/-- R86: train A started on the inner channels with the parameters of the ROLL table. -/
def State.probing (s : State) : State :=
  { s with
    wcu := { s.wcu with
      trainA := s.wcu.trainA.started
        (Vector.ofFn fun c => (s.channelEntry c).present && decide ((s.channelEntry c).side = s.innerSide))
        s.tbu.active.roll.probePressure s.tbu.active.roll.probeCount s.tbu.active.roll.pulseLength s.tbu.active.roll.rep s.clock },
    rou := { s.rou with state := .probe } }

/-- R94: entry into HOLDOFF. -/
def State.heldOff (s : State) : State :=
  { s with rou := { s.rou with
      state := .holdoff, holdTimer := none, rampTimer := some { length := s.tbu.active.roll.rampInterval, since := s.clock } } }

/-- R78, R83: a good lateral sample stored: the last sample, the sign, the lateral timer and the peak of the episode. -/
def State.lateralStored (s : State) (a : Int) : State :=
  { s with rou := { s.rou with
      lastSample := a, sign := if 0 < a then .positive else if a < 0 then .negative else s.rou.sign,
      lateralTimer := some { length := 200, since := s.clock },
      episode :=
        if s.rou.state = .holdoff ∧ s.rou.sensorMark = true then s.rou.episode
        else s.rou.episode.map fun ep => { ep with peak := max ep.peak a.natAbs } } }

/-- R92 test 3: the hold timer against the exit threshold. -/
def State.holdTested (s : State) : State :=
  { s with rou := { s.rou with holdTimer := s.holdAgainst s.rou.exitT } }

/-- R86: some present channel of the inner side is unmasked. -/
def State.innerUnmasked (s : State) : Prop :=
  ∃ c : Fin 6, (s.channelEntry c).present = true ∧ (s.channelEntry c).side = s.innerSide ∧ s.wcu.channels[c].mask = none

/-- R86: the probe test. -/
def State.probePasses (s : State) : Prop :=
  s.rou.probeT ≤ s.rou.lastSample.natAbs ∧ s.wcu.trainA.armed = true ∧ s.rou.lockoutTimer = none ∧
    s.tbu.active.roll.probeCount ≠ 0 ∧ s.rou.probeDone = false ∧ s.innerUnmasked

/-- R85, R87: the curve is over or the trailer is slow. -/
def State.curvePast (s : State) : Prop := s.rou.lastSample.natAbs < s.rou.watchT ∨ s.wcu.refSpeed < s.tbu.active.roll.vMin

/-- R97: HOLDOFF has ended with every intervention pressure 0: the lockout timer starts, the episode's record is queued, the lifted marks
clear with the reference speed formed again, and the new state is chosen. -/
def State.holdoffOver (s : State) : State :=
  let locked : State := { s with rou := { s.rou with
    rampTimer := none, lockoutTimer := some { length := s.tbu.active.roll.lockout, since := s.clock }, episode := none } }
  let recorded : State :=
    match s.rou.episode with
    | some ep => locked.withEvent (rollRecord ep (s.clock - ep.start) (if s.rou.sensorMark then .sensorLost else .ramped))
    | none => locked
  let landed : State := { recorded with rou := { recorded.rou with lifted := Vector.replicate 8 false } }
  let seen : State := { landed with wcu := { landed.wcu with refSpeed := landed.referenceSpeed } }
  if s.rou.sensorMark then
    { seen with rou := { seen.rou with state := .off .sensorLost, sensorMark := false, goodCount := 0, probeDone := false } }
  else if seen.rou.watchT ≤ seen.rou.lastSample.natAbs ∧ seen.tbu.active.roll.vMin ≤ seen.wcu.refSpeed then seen.watching
  else seen.quieted

/-- R99: a sensor failure. -/
def State.sensorFailed (s : State) : State :=
  let lost : State := { s with rou := { s.rou with sensorLost := true } }
  match s.rou.state with
  | .quiet => { lost with rou := { lost.rou with state := .off .sensorLost, probeDone := false, goodCount := 0 } }
  | .watch => { lost with rou := { lost.rou with state := .off .sensorLost, probeDone := false, goodCount := 0 } }
  | .probe =>
    { lost with
      wcu := { lost.wcu with trainA := lost.wcu.trainA.stopped },
      rou := { lost.rou with state := .off .sensorLost, probeDone := false, goodCount := 0 } }
  | .intervene => { lost.heldOff with rou := { lost.heldOff.rou with sensorMark := true } }
  | .holdoff => { lost with rou := { lost.rou with sensorMark := true } }
  | .off .sensorLost => { lost with rou := { lost.rou with goodCount := 0 } }
  | .off .disabled => s

/-! ## The record store -/

/-- R192, R193: the scan over the store from slot `a` to slot `b`, stepping over recognised records whole and over other slots one at a time, and
passing no recognised record whose header slot has the property. -/
inductive Scans (m : Memory) (bound : Nat) (p : Nat → Prop) : Nat → Nat → Prop
  | here (a : Nat) : Scans m bound p a a
  | record (a length b : Nat) : a < bound → recordAt m bound a = some length → ¬p a → Scans m bound p (a + length) b → Scans m bound p a b
  | slot (a b : Nat) : a < bound → recordAt m bound a = none → Scans m bound p (a + 1) b → Scans m bound p a b

/-- A VALID record of a kind. -/
def validOf (m : Memory) (k : RecordKind) (n : Nat) : Prop := kindAt m n = some k ∧ stateAt m n = 1

/-! ## Restore and the power states (9.8, 9.9, 10.4) -/

/-- A QUERY, APPLY or RELEASE operation that waits for its command to be sent (R14). -/
def waitingValve (kind : ValveKind) (requester : Option Tag) (auto : Bool) : ValveOp :=
  { kind := kind, requester := requester, phase := .pending, auto := auto, valveTimer := none, polls := [] }

/-- R22, R49, R76, R106, R144, R172, R181: entry into STANDBY, the completions of what it ends being dropped. -/
def State.inStandby (s : State) : State :=
  let entered : State :=
    { s with
      asv := { s.asv with valveOp := none, heldRelease := none, airTimer := none, linkTimer := none, autoParkTimer := none },
      lap := { s.lap with axles := Vector.ofFn fun a => { s.lap.axles[a] with staleTimer := none, fallbackTimer := none } },
      wcu := { s.wcu with
        trainA := s.wcu.trainA.stopped,
        trainB := (match s.wcu.service with | .running _ _ => s.wcu.trainB.stopped | _ => s.wcu.trainB),
        service := .none, pendingValve := if s.asv.valveOp.isSome then none else s.wcu.pendingValve },
      rou := { s.rou with
        state := if s.rou.state = .off .disabled then .off .disabled else .quiet, goodCount := 0, sensorMark := false, probeDone := false,
        pressures := Vector.replicate 8 0, lifted := Vector.replicate 8 false, episode := none, lateralTimer := none, holdTimer := none,
        rampTimer := none, lockoutTimer := none, sensorLost := false },
      twu := { s.twu with learn := none, half := none },
      lru := { s.lru with slotRelease := none, slotService := none, demandSlot := none, rearQueue := [], forwardQueue := [] },
      apu := { s.apu with
        power := .standby, statusTimer := none, standbyTimer := s.starting (s.tbu.active.tyre.standbyLimit * 3600000) } }
  match s.rou.episode with
  | some ep => entered.withEvent (rollRecord ep (s.clock - ep.start) .standby)
  | none => entered

/-- R2, R7, R24, R51, R79, R107, R119, R129, R143, R159, R178, R192: the end of restore, before the power state is decided. -/
def State.restored (s : State) (t : Tables) : State :=
  ({ s with
    asv := { s.asv with airTimer := s.starting 500, valveOp := some (waitingValve .query none false) },
    lap := { s.lap with axles := Vector.ofFn fun a =>
      if t.axle[a].present then { s.lap.axles[a] with staleTimer := s.starting 1000 } else s.lap.axles[a] },
    wcu := { s.wcu with pendingValve := some .query },
    rou :=
      if t.roll.enabled = true ∧ s.rou.state ≠ .off .disabled then { s.rou with lateralTimer := s.starting 200 }
      else { s.rou with state := .off .disabled },
    twu := { s.twu with entries := Vector.ofFn fun i => s.twu.entries[i].map fun b => { b with reading :=
      if (bindingValid t.axle b.binding) then { b.reading with missingTimer := s.starting 1200000 } else b.reading } },
    tbu := { s.tbu with active := t, shadow := t, differs := false },
    apu := { s.apu with configured := (List.finRange 6).any fun c => t.channel.entries[c].present },
    rst := { s.rst with restore := none } } : State).withEvent (resetRecord s.apu.seconds s.apu.cause)

/-- R23, R50, R76, R106, R128, R182: the return to RUN, from SLEEP or from STANDBY. -/
def State.returned (s : State) : State :=
  { s with
    asv := { s.asv with
      supply := .undetermined, fallen := false, lastAir := none, airTimer := s.starting 500, airLost := false, link := .unlinked,
      lastSeq := none, goodRun := 0, lastDemand := none, towSpeed := none, linkLost := false,
      valveOp := some (waitingValve .query none false), dEff := none },
    lap := { s.lap with axles := Vector.ofFn fun a =>
      if s.tbu.active.axle[a].present then
        (match s.lap.axles[a].status with
         | .unknown => { s.lap.axles[a] with takeWhole := true, staleTimer := s.starting 1000 }
         | .live => { s.lap.axles[a] with takeWhole := true, staleTimer := s.starting 1000 }
         | .stale => { s.lap.axles[a] with takeWhole := true, fallbackTimer := s.starting 10000 }
         | .fallback => { s.lap.axles[a] with takeWhole := true })
      else s.lap.axles[a] },
    wcu := { s.wcu with
      channels := Vector.ofFn fun c =>
        { command := s.wcu.channels[c].command, lastSent := 0, request := false, mask := none, awaiting := false, missCount := 0,
          lastReply := none, refreshTimer := none },
      ranking := [0, 1, 2, 3, 4, 5], pendingValve := some .query },
    rou := { s.rou with lateralTimer := if s.rou.state = .off .disabled then s.rou.lateralTimer else s.starting 200 },
    twu :=
      if s.apu.power = .sleep then
        { s.twu with entries := Vector.ofFn fun i => s.twu.entries[i].map fun b => { b with reading :=
            if (s.evaluated b) = true ∧ b.reading.level ≠ .missing then { b.reading with missingTimer := s.starting 1200000 }
            else b.reading } }
      else s.twu,
    apu := { s.apu with power := .run, towPower := true, standbyTimer := none, statusTimer := s.starting 100 } }

/-! ## The air supply supervisor, the tow link and the load apportioner -/

/-- R2, R12: the air sample timer has expired. -/
def State.airSilent (s : State) : State :=
  ({ s with asv := { s.asv with airTimer := none, airLost := true, lastAir := none } } : State).withDemand

/-- R5: the link timer has expired. -/
def State.linkSilent (s : State) : State :=
  ({ s with
    asv :=
      match s.asv.link with
      | .linked =>
        { s.asv with
          link := .unlinked, linkLost := true, goodRun := 0, lastSeq := none, lastDemand := none, towSpeed := none, linkTimer := none }
      | .unlinked => { s.asv with goodRun := 0, lastSeq := none, linkTimer := none } } : State).withDemand

/-- R161 to R163: the position that a DEMAND frame's hop count gives, 0 beyond the fourth place. -/
def placeOf (hop : BitVec 4) : Nat := if hop.toNat ≤ 3 then hop.toNat + 1 else 0

/-- R161, R162, R163: a DEMAND frame's hop count sets the position and COMBINATION_TOO_LONG; a changed position ends every held request, the
learn window and the exchange half. -/
def State.placed (s : State) (hop : BitVec 4) : State :=
  let moved : State := { s with lru := { s.lru with position := placeOf hop, tooLong := decide (4 ≤ hop.toNat) } }
  if placeOf hop = s.lru.position then moved
  else
    { moved with
      asv := { s.asv with heldRelease := none },
      wcu := { s.wcu with service := match s.wcu.service with | .held _ _ _ => .none | x => x },
      tbu := { s.tbu with heldInsert := none },
      twu := { s.twu with learn := none, half := none },
      lru := { moved.lru with slotRelease := none, slotService := none, slotInsert := none } }

/-- The tag of a held service actuation. -/
def Service.heldTag : Service → Option Tag
  | .held tag _ _ => some tag
  | _ => Option.none

/-- R162: the tags that a change of the position answers, in order. -/
def State.endedByMove (s : State) : List Tag :=
  (s.asv.heldRelease.map (·.tag)).toList ++ s.wcu.service.heldTag.toList ++ s.tbu.heldInsert.toList ++
    (s.twu.learn.map (·.tag)).toList ++ (s.twu.half.map (·.tag)).toList

/-- R161, R166: up to hop 3 the copy of a DEMAND frame with its hop one higher goes to the demand slot, in place of one not yet taken, or at
once to a free rear transmitter; bytes 5 to 7 are 0 (notes/assumptions/33.md). -/
def State.copied (s : State) (pressure : BitVec 16) (hop seq : BitVec 4) (speed : BitVec 16) : State :=
  let copy : CanFrame :=
    { id := linkId 1 0,
      data := packBytes
        [BitVec.ofNat 8 (pressure.toNat / 256), BitVec.ofNat 8 pressure.toNat, BitVec.ofNat 8 ((hop.toNat + 1) * 16 + seq.toNat),
          BitVec.ofNat 8 (speed.toNat / 256), BitVec.ofNat 8 speed.toNat] }
  if 4 ≤ hop.toNat then s
  else if s.lru.rearTx = none then { s with lru := { s.lru with rearTx := some copy, demandSlot := none } }
  else { s with lru := { s.lru with demandSlot := some copy } }

/-- R3, R4: a DEMAND frame is classified by its sequence number, and a good one is taken. -/
def State.demanded (s : State) (pressure : BitVec 16) (seq : BitVec 4) (speed : BitVec 16) : State :=
  if s.asv.lastSeq = some seq then { s with asv := { s.asv with staleCount := min 255 (s.asv.staleCount + 1) } }
  else
    let run := if s.asv.goodRun < 3 then s.asv.goodRun + 1 else 3
    let lost := match s.asv.lastSeq with | none => 0 | some x => (16 + seq.toNat - x.toNat - 1) % 16
    ({ s with asv := { s.asv with
        lastSeq := some seq, lastDemand := some (min 1000 pressure.toNat), towSpeed := some (min 1500 speed.toNat),
        linkTimer := s.starting s.tbu.active.supply.linkTimeout, goodRun := run, lostCount := min 255 (s.asv.lostCount + lost),
        link := if s.asv.link = .unlinked ∧ run = 3 then .linked else s.asv.link,
        linkLost := if s.asv.link = .unlinked ∧ run = 3 then false else s.asv.linkLost } } : State).withDemand

/-- R16, R7: a valve operation has failed; in UNDETERMINED the QUERY is started again. -/
def State.valveFailed (s : State) : State :=
  let failed : State := ({ s with asv := { s.asv with valveOp := none } } : State).withFlag .parkFault
  if s.asv.supply = .undetermined then failed.withValve .query none false else failed

/-- The valve operation is over (R16). -/
def State.valveOver (s : State) : State := { s with asv := { s.asv with valveOp := none } }

/-- The held release is over (R20). -/
def State.releaseOver (s : State) : State :=
  { s with asv := { s.asv with heldRelease := none }, lru := { s.lru with slotRelease := none } }

/-- The tag of the held release. -/
def State.releaseTags (s : State) : List Tag := (s.asv.heldRelease.map (·.tag)).toList

/-- R19: the release conditions against the last air sample. -/
def State.airReleases (s : State) : Prop :=
  ∃ x, s.asv.lastAir = some x ∧ s.tbu.active.supply.release ≤ x.reservoir ∧ s.tbu.active.supply.recovery ≤ x.supply

/-- R28, R34: the take-whole mark as a good sample finds it. -/
def LoadRecord.wholly (r : LoadRecord) : Prop := r.takeWhole = true ∨ r.status = .stale ∨ r.status = .fallback

/-- R25 to R34: an axle's record after a good load sample, held or not. -/
def State.sampled (s : State) (a : Fin 4) (r : LoadRecord) (bag : Nat) : LoadRecord → Prop := fun x =>
  let raw := rawLoad s.tbu.active.load a bag
  x.bag = some bag ∧ x.lRaw = some raw ∧ x.staleTimer = s.starting 1000 ∧ x.fallbackTimer = none ∧ x.silent = false ∧
    x.ratio = r.ratio ∧ x.target = r.target ∧
    if s.lap.held then
      x.lF = r.lF ∧ x.status = (if r.status = .unknown then .unknown else .live) ∧ (x.takeWhole = true ↔ r.wholly)
    else
      (r.wholly → x.lF = some raw) ∧
        (¬r.wholly → x.lF = some (match r.lF with | some l => filterLoad l raw | none => raw)) ∧
        x.status = .live ∧ x.takeWhole = false

/-! ## The wheel-end channel unit (chapter 3) -/

/-- One channel's record replaced. -/
def State.withChannel (s : State) (c : Fin 6) (ch : Channel) : State :=
  { s with wcu := { s.wcu with channels := s.wcu.channels.set c ch } }

/-- The reference speed formed again (R66). -/
def State.withSpeed (s : State) : State := { s with wcu := { s.wcu with refSpeed := s.referenceSpeed } }

/-- R62: a channel's record once it is masked. -/
def Channel.masked (ch : Channel) (cause : MaskCause) : Channel :=
  { ch with mask := some cause, request := false, awaiting := false, refreshTimer := none }

/-- R59, R60, R88: a reply of a channel is stored; a fault masks the channel, and another reply goes to the reference speed and to the lift
test. -/
def State.replied (s : State) (c : Fin 6) (x : LastReply) : State :=
  let stored : Channel := { s.wcu.channels[c] with lastReply := some x, missCount := 0, awaiting := false }
  if x.fault = 0 then
    let seen := (s.withChannel c stored).withSpeed
    if s.rou.state = .probe ∧ s.wcu.trainA.phase = .pulse ∧ s.wcu.trainA.targets[c] = true ∧
        x.speed < seen.wcu.refSpeed * (1000 - s.tbu.active.roll.lift) / 1000 then
      (({ seen with rou := { seen.rou with
            lifted := Vector.ofFn fun w => seen.rou.lifted[w] || (s.channelEntry c).serves w } } : State).withSpeed).intervened .lift
    else seen
  else s.withChannel c (stored.masked .fault)

/-- R70: a train after its phase timer has expired. -/
def PulseTrain.ticked (t : PulseTrain) (clock : Nat) : PulseTrain :=
  let timer : Timer := some { length := t.pulse, since := clock }
  match t.phase with
  | .off => t
  | .pulse => { t with phase := .gap, timer := timer }
  | .gap =>
    if t.count - 1 = 0 then
      (if t.rep then { t with phase := .pulse, count := t.base, terminal := false, timer := timer }
       else { t with phase := .off, count := 0, terminal := true, armed := false, timer := none })
    else { t with phase := .pulse, count := t.count - 1, timer := timer }

/-- R70: the expiry of the phase timer brings a series to its terminal count. -/
def PulseTrain.ends (t : PulseTrain) : Prop := t.phase = .gap ∧ t.count - 1 = 0

/-- R89: the rollover unit is told of train A's terminal count. -/
def State.probeOver (s : State) : State :=
  if s.rou.state = .probe ∧ s.wcu.trainA.rep = false then ({ s with rou := { s.rou with probeDone := true } } : State).watching else s

/-- R72: the conditions of a service actuation on channel `c` that come before condition number `n` of the table hold. -/
def State.serviceMeets (s : State) (c : Fin 6) (n : Nat) : Prop :=
  (1 < n → s.wcu.refSpeed ≤ 20) ∧ (2 < n → s.asv.dEff = some 0) ∧
    (3 < n → s.asv.supply = .parked ∨ s.asv.supply = .ready) ∧
    (4 < n → s.rou.state = .quiet ∨ ∃ x, s.rou.state = .off x) ∧
    (5 < n → s.tbu.active.channel.entries[c].present = true ∧ s.wcu.channels[c].mask = none)

/-- R72: train B is armed and started on one channel, and the actuation runs. -/
def State.serviceStarted (s : State) (tag : Tag) (a : ServiceArgs) : State :=
  { s with wcu := { s.wcu with
      trainB := ({ s.wcu.trainB with armed := true } : PulseTrain).started (Vector.ofFn fun c => decide (c = a.channel)) a.pressure a.count
        a.pulse false s.clock,
      service := .running tag a.channel } }

/-- 11.2, 3.8: the arguments of a SERVICE_ACTUATE lie within their ranges. -/
def serviceArgsOf (r : Request) (a : ServiceArgs) : Prop :=
  r.arg 0 = a.channel.val + 1 ∧ a.count = (r.arg 1 * 256 + r.arg 2) / 4096 ∧ a.pressure = (r.arg 1 * 256 + r.arg 2) % 1024 ∧
    a.pulse = r.arg 3 * 256 + r.arg 4 ∧ 1 ≤ a.count ∧ a.count ≤ 8 ∧ 1 ≤ a.pressure ∧ a.pressure ≤ 1000 ∧ 50 ≤ a.pulse ∧ a.pulse ≤ 1000

/-! ## Lateral samples (R78 to R100) -/

/-- R83: a good lateral sample reverses the sign. -/
def State.reverses (s : State) (a : Int) : Prop := (s.rou.sign = .positive ∧ a < 0) ∨ (s.rou.sign = .negative ∧ 0 < a)

/-- R91, R96: INTERVENE again out of HOLDOFF. -/
def State.resumed (s : State) : State :=
  { s with rou := { s.rou with
      state := .intervene, holdTimer := none, rampTimer := none, pressures := s.sidePressures, probeDone := false } }

/-- R92 test 2: the sides exchanged. -/
def State.exchanged (s : State) : State := { s with rou := { s.rou with pressures := s.sidePressures } }

/-- R84 to R87, R92, R96, R100: the tests of a good lateral sample of value `a`, by stability state; `s` is the state before the sample. -/
inductive State.LateralEffect (s : State) (a : Int) : State → Prop
  | quietStays : s.rou.state = .quiet → a.natAbs < s.rou.watchT ∨ s.wcu.refSpeed < s.tbu.active.roll.vMin →
      LateralEffect s a (s.lateralStored a)
  | quietWatches : s.rou.state = .quiet → s.rou.watchT ≤ a.natAbs → s.tbu.active.roll.vMin ≤ s.wcu.refSpeed → a.natAbs < s.rou.aLim →
      LateralEffect s a (s.lateralStored a).watching
  | quietIntervenes : s.rou.state = .quiet → s.rou.watchT ≤ a.natAbs → s.tbu.active.roll.vMin ≤ s.wcu.refSpeed → s.rou.aLim ≤ a.natAbs →
      LateralEffect s a ((s.lateralStored a).watching.intervened .lateral)
  | watchEnds : s.rou.state = .watch → (s.lateralStored a).curvePast → LateralEffect s a (s.lateralStored a).quieted
  | watchIntervenes : s.rou.state = .watch → ¬(s.lateralStored a).curvePast → s.rou.aLim ≤ a.natAbs →
      LateralEffect s a ((s.lateralStored a).intervened .lateral)
  | watchProbes : s.rou.state = .watch → ¬(s.lateralStored a).curvePast → a.natAbs < s.rou.aLim → s.tbu.active.roll.shadow = false →
      (s.lateralStored a).probePasses → LateralEffect s a (s.lateralStored a).probing
  | watchStays : s.rou.state = .watch → ¬(s.lateralStored a).curvePast → a.natAbs < s.rou.aLim →
      s.tbu.active.roll.shadow = true ∨ ¬(s.lateralStored a).probePasses → LateralEffect s a (s.lateralStored a)
  | probeEnds : s.rou.state = .probe → (s.lateralStored a).curvePast → LateralEffect s a (s.lateralStored a).trainAStopped.quieted
  | probeIntervenes : s.rou.state = .probe → ¬(s.lateralStored a).curvePast → s.rou.aLim ≤ a.natAbs →
      LateralEffect s a ((s.lateralStored a).intervened .lateral)
  | probeReversesLow : s.rou.state = .probe → ¬(s.lateralStored a).curvePast → a.natAbs < s.rou.aLim → s.reverses a →
      a.natAbs < s.rou.probeT → LateralEffect s a (s.lateralStored a).trainAStopped.watching
  | probeMoves : s.rou.state = .probe → ¬(s.lateralStored a).curvePast → a.natAbs < s.rou.aLim → s.reverses a → s.rou.probeT ≤ a.natAbs →
      (s.lateralStored a).innerUnmasked → LateralEffect s a (s.lateralStored a).probing
  | probeMasked : s.rou.state = .probe → ¬(s.lateralStored a).curvePast → a.natAbs < s.rou.aLim → s.reverses a → s.rou.probeT ≤ a.natAbs →
      ¬(s.lateralStored a).innerUnmasked → LateralEffect s a (s.lateralStored a).trainAStopped.watching
  | probeStays : s.rou.state = .probe → ¬(s.lateralStored a).curvePast → a.natAbs < s.rou.aLim → ¬s.reverses a →
      LateralEffect s a (s.lateralStored a)
  | interveneSlow : s.rou.state = .intervene → s.wcu.refSpeed < s.tbu.active.roll.vMin → LateralEffect s a (s.lateralStored a).heldOff
  | interveneReverses : s.rou.state = .intervene → s.tbu.active.roll.vMin ≤ s.wcu.refSpeed → s.reverses a →
      LateralEffect s a (s.lateralStored a).exchanged.holdTested
  | interveneStays : s.rou.state = .intervene → s.tbu.active.roll.vMin ≤ s.wcu.refSpeed → ¬s.reverses a →
      LateralEffect s a (s.lateralStored a).holdTested
  | holdoffResumes : s.rou.state = .holdoff → s.rou.sensorMark = false → s.rou.aLim ≤ a.natAbs →
      LateralEffect s a (s.lateralStored a).resumed
  | holdoffStays : s.rou.state = .holdoff → s.rou.sensorMark = true ∨ a.natAbs < s.rou.aLim → LateralEffect s a (s.lateralStored a)
  | offCounts : s.rou.state = .off .sensorLost → s.rou.goodCount + 1 < 5 →
      LateralEffect s a
        { s.lateralStored a with rou := { (s.lateralStored a).rou with goodCount := s.rou.goodCount + 1 } }
  | offEnds : s.rou.state = .off .sensorLost → 5 ≤ s.rou.goodCount + 1 →
      LateralEffect s a
        { s.lateralStored a with rou := { (s.lateralStored a).rou with state := .quiet, sensorLost := false, goodCount := 0 } }

/-- R95: a ramp step, before the ramp timer is restarted or HOLDOFF ends. -/
def State.stepped (s : State) : State :=
  { s with rou := { s.rou with
      pressures := Vector.ofFn fun w => s.rou.pressures[w] - s.tbu.active.roll.rampStep, rampTimer := none } }

/-! ## Telegrams and binding changes (chapters 5 and 6) -/

/-- One registry entry replaced. -/
def State.withBound (s : State) (i : Fin 20) (b : Option Bound) : State :=
  { s with twu := { s.twu with entries := s.twu.entries.set i b } }

/-- R188: room for records of the given lengths. -/
def State.hasRoom (s : State) (lengths : List Nat) : Prop :=
  s.rst.queue.length + lengths.length ≤ 8 ∧ s.rst.erase = none ∧
    lengths.sum ≤ 1024 - s.rst.writePos - (s.rst.queue.map (·.length)).sum

/-- R131: an entry changes and its REG_ENTRY record is queued. -/
def State.bindingChanged (s : State) (i : Fin 20) (b : Option Bound) : State :=
  let changed := s.withBound i b
  { changed with rst := { s.rst with queue := s.rst.queue ++ [regRecord i b] } }

/-- R119: the length of a missing timer that starts now. -/
def State.missingLength (s : State) : Nat := if s.apu.power = .run ∧ 50 < s.wcu.refSpeed then 300000 else 1200000

/-- R124: an entry as it is bound: no reading yet, and its missing timer started if its binding is valid. -/
def State.freshBound (s : State) (ident : BitVec 32) (binding : Binding) : Bound :=
  { ident := ident, binding := binding,
    reading :=
      { level := .unknown, pressure := none, temperature := none, count := none, adj := none, hot := false, battery := false, stale := false,
        deflMissing := false, repeatWindow := none,
        missingTimer := if bindingValid s.tbu.active.axle binding then s.starting s.missingLength else none } }

/-- R111 to R118, R123: a telegram is accepted for the entry `i` that holds `b`. -/
def State.telegramAccepted (s : State) (i : Fin 20) (b : Bound) (x : Telegram) : State :=
  let adj := adjusted (s.coldReference b.binding) x.temperature
  let level := newLevel s.tbu.active.tyre adj x.pressure x.rapidLoss b.reading.level
  let next := s.withBound i (some { b with
    reading :=
      { level := level, pressure := some x.pressure, temperature := some x.temperature, count := some x.count, adj := some adj,
        hot := newHot s.tbu.active.tyre.hotLimit x.temperature b.reading.hot, battery := x.batteryLow, stale := false,
        deflMissing := false, missingTimer := s.starting s.missingLength, repeatWindow := s.starting 2000 } })
  if b.binding.isTyre = true ∧ level ≠ b.reading.level ∧ (level = .deflated ∨ level = .lowAlarm) then
    next.withEvent (tyreRecord s.apu.seconds b.binding b.ident x.pressure x.temperature level x.rapidLoss)
  else next

/-- No entry holds an identifier. -/
def State.unheld (s : State) (ident : BitVec 32) : Prop := ∀ (i : Fin 20) (b : Bound), s.twu.entries[i] = some b → b.ident ≠ ident

/-- No entry holds a binding. -/
def State.unbound (s : State) (binding : Binding) : Prop := ∀ (i : Fin 20) (b : Bound), s.twu.entries[i] = some b → b.binding ≠ binding

/-- R133, R136: the entry that a binding and a new identifier go to: the one bound there, else the first empty one. -/
def State.goesTo (s : State) (binding : Binding) (i : Fin 20) : Prop :=
  (∃ b, s.twu.entries[i] = some b ∧ b.binding = binding) ∨
    (s.unbound binding ∧ s.twu.entries[i] = none ∧ ∀ j : Fin 20, j < i → s.twu.entries[j] ≠ none)

/-- The learn window closed. -/
def State.learnOver (s : State) : State := { s with twu := { s.twu with learn := none } }

/-- The exchange half ended. -/
def State.halfOver (s : State) : State := { s with twu := { s.twu with half := none } }

/-- R133, R134: what the learn rules make of a telegram, and the frames they send. What a binding ends is handed on before the binding telegram
is accepted (R122, R174); that a duplicate is answered and added however many there are is the model's choice (notes/assumptions/40.md). -/
inductive State.LearnEffect (s : State) (x : Telegram) : State → List CanFrame → Prop
  | untaught : s.twu.learn = none ∨ x.learnTrigger = false → LearnEffect s x s []
  | heldThere (w : LearnWindow) (j : Fin 20) (b : Bound) : s.twu.learn = some w → x.learnTrigger = true → s.twu.entries[j] = some b →
      b.ident = x.ident → b.binding = w.binding → LearnEffect s x s.learnOver [response s.lru.position w.tag .done .noReason []]
  | duplicate (w : LearnWindow) (j : Fin 20) (b : Bound) : s.twu.learn = some w → x.learnTrigger = true → s.twu.entries[j] = some b →
      b.ident = x.ident → b.binding ≠ w.binding → x.ident ∉ w.answered →
      LearnEffect s x { s with twu := { s.twu with learn := some { w with answered := w.answered ++ [x.ident] } } }
        [response s.lru.position w.tag .refused .duplicate (be32 x.ident.toNat ++ [BitVec.ofNat 8 b.binding.code])]
  | answeredAlready (w : LearnWindow) (j : Fin 20) (b : Bound) : s.twu.learn = some w → x.learnTrigger = true → s.twu.entries[j] = some b →
      b.ident = x.ident → b.binding ≠ w.binding → x.ident ∈ w.answered → LearnEffect s x s []
  | taught (w : LearnWindow) (i : Fin 20) : s.twu.learn = some w → x.learnTrigger = true → s.unheld x.ident → s.goesTo w.binding i →
      s.hasRoom [1] → bindingValid s.tbu.active.axle w.binding = true →
      LearnEffect s x
        ((s.bindingChanged i (some (s.freshBound x.ident w.binding))).learnOver.handedOn.telegramAccepted i
          (s.freshBound x.ident w.binding) x)
        [response s.lru.position w.tag .done .noReason []]
  | taughtDormant (w : LearnWindow) (i : Fin 20) : s.twu.learn = some w → x.learnTrigger = true → s.unheld x.ident → s.goesTo w.binding i →
      s.hasRoom [1] → bindingValid s.tbu.active.axle w.binding = false →
      LearnEffect s x (s.bindingChanged i (some (s.freshBound x.ident w.binding))).learnOver
        [response s.lru.position w.tag .done .noReason []]
  | noRoom (w : LearnWindow) (i : Fin 20) : s.twu.learn = some w → x.learnTrigger = true → s.unheld x.ident → s.goesTo w.binding i →
      ¬s.hasRoom [1] → LearnEffect s x s.learnOver [response s.lru.position w.tag .failed .storeFull []]
  | noPlace (w : LearnWindow) : s.twu.learn = some w → x.learnTrigger = true → s.unheld x.ident → (∀ i, ¬s.goesTo w.binding i) →
      LearnEffect s x s []

/-- R108 to R111: what a telegram that arrives while telegrams are taken does, and the frames it sends. -/
inductive State.TelegramEffect (s : State) (x : Telegram) : State → List CanFrame → Prop
  | invalid : x.ident = 0 ∨ x.ident = 0xFFFFFFFF →
      TelegramEffect s x { s with twu := { s.twu with invalid := min 65535 (s.twu.invalid + 1) } } []
  | foreign : x.ident ≠ 0 → x.ident ≠ 0xFFFFFFFF → s.unheld x.ident → s.twu.learn = none ∨ x.learnTrigger = false →
      TelegramEffect s x { s with twu := { s.twu with foreign := min 65535 (s.twu.foreign + 1) } } []
  | unmatched (E : State) (fs : List CanFrame) : x.ident ≠ 0 → x.ident ≠ 0xFFFFFFFF → s.unheld x.ident → s.twu.learn ≠ none →
      x.learnTrigger = true → s.LearnEffect x E fs → TelegramEffect s x E fs
  | again (i : Fin 20) (b : Bound) : x.ident ≠ 0 → x.ident ≠ 0xFFFFFFFF → s.twu.entries[i] = some b → b.ident = x.ident →
      s.evaluated b = true → b.reading.count = some x.count → b.reading.repeatWindow ≠ none →
      TelegramEffect s x { s with twu := { s.twu with repeats := min 65535 (s.twu.repeats + 1) } } []
  | accepted (i : Fin 20) (b : Bound) (E : State) (fs : List CanFrame) : x.ident ≠ 0 → x.ident ≠ 0xFFFFFFFF → s.twu.entries[i] = some b →
      b.ident = x.ident → s.evaluated b = true → b.reading.count ≠ some x.count ∨ b.reading.repeatWindow = none →
      (s.telegramAccepted i b x).LearnEffect x E fs → TelegramEffect s x E fs
  | dormant (i : Fin 20) (b : Bound) (E : State) (fs : List CanFrame) : x.ident ≠ 0 → x.ident ≠ 0xFFFFFFFF → s.twu.entries[i] = some b →
      b.ident = x.ident → s.evaluated b = false → s.LearnEffect x E fs → TelegramEffect s x E fs

/-- R124, R125: a bound entry once it has moved to another binding. -/
def State.movedBound (s : State) (b : Bound) (binding : Binding) : Bound :=
  if bindingValid s.tbu.active.axle b.binding = bindingValid s.tbu.active.axle binding then { b with binding := binding }
  else s.freshBound b.ident binding

/-- R139: the entry that holds a binding, or none. -/
def State.Holds (s : State) (binding : Binding) : Option (Fin 20 × Bound) → Prop
  | none => s.unbound binding
  | some (i, b) => s.twu.entries[i] = some b ∧ b.binding = binding

/-- R139: an entry, if there is one, moves to a binding with its REG_ENTRY record. -/
def State.moves (s : State) (x : Option (Fin 20 × Bound)) (binding : Binding) : State :=
  match x with
  | some (i, b) => s.bindingChanged i (some (s.movedBound b binding))
  | none => s

/-! ## Calibration tables and insertion (chapter 7) -/

/-- R153: the requirement of a check, V1 to V7, on the shadow copies. -/
def Tables.Passes (t : Tables) : Nat → Prop
  | 1 => ∀ a : Fin 4, t.axle[a].present = true →
      2 ≤ t.load.counts[a] ∧ t.load.counts[a] ≤ 8 ∧
        ∀ j p q, j + 1 < t.load.counts[a] → t.load.points[8 * a.val + j]? = some p → t.load.points[8 * a.val + j + 1]? = some q →
          p.bag < q.bag ∧ p.load ≤ q.load
  | 2 => ∀ a : Fin 4, t.axle[a].present = true → t.axle[a].rMin ≤ 1000 ∧ t.axle[a].rMin ≤ t.axle[a].fallback
  | 3 => ∀ c : Fin 6, t.channel.entries[c].present = true →
      (∃ a : Fin 4, t.channel.entries[c].axles[a] = true) ∧
        (∀ a : Fin 4, t.channel.entries[c].axles[a] = true → t.axle[a].present = true) ∧ t.channel.entries[c].node ≠ 31 ∧
        ∀ d : Fin 6, d ≠ c → t.channel.entries[d].present = true →
          t.channel.entries[d].node ≠ t.channel.entries[c].node ∧
            ∀ w : Fin 8, ¬((t.channel.entries[c]).serves w = true ∧ (t.channel.entries[d]).serves w = true)
  | 4 => 2 ≤ t.roll.count ∧ t.roll.count ≤ 6 ∧
      (∀ j p q, j + 1 < t.roll.count → t.roll.points[j]? = some p → t.roll.points[j + 1]? = some q →
        p.load < q.load ∧ q.threshold ≤ p.threshold) ∧
      (∀ p, t.roll.points[t.roll.count - 1]? = some p → t.roll.aFloor ≤ p.threshold) ∧
      t.roll.exit < t.roll.watch ∧ t.roll.watch < t.roll.probe ∧ t.roll.probe < 1000
  | 5 => t.tyre.deflate < t.tyre.alarm ∧ t.tyre.alarm < t.tyre.warn ∧ t.tyre.warn < 1000 ∧ 1000 < t.tyre.high ∧
      ∀ a : Fin 4, t.axle[a].present = true → 150 ≤ t.tyre.axles[a].derate
  | 6 => t.supply.emergency < t.supply.recovery ∧ t.supply.ready ≤ t.supply.release ∧ t.supply.emergencyDemand ≤ 1000
  | 7 => t.roll.enabled = true →
      (∃ c : Fin 6, t.channel.entries[c].present = true ∧ t.channel.entries[c].side = .left) ∧
        ∃ c : Fin 6, t.channel.entries[c].present = true ∧ t.channel.entries[c].side = .right
  | _ => True

/-- R153: every check's requirement is met. -/
def Tables.Valid (t : Tables) : Prop := ∀ n, t.Passes n

/-- R155: the slots of a table's record. -/
def slotsOf : TableId → Nat
  | .axle => 3
  | .load => 9
  | .channel => 3
  | .roll => 5
  | .tyre => 3
  | .supply => 2
  | .alert => 3

/-- R155: the tables whose shadow differs from the active copy, in order. -/
def State.changedTables (s : State) : List TableId :=
  (if s.tbu.active.axle = s.tbu.shadow.axle then [] else [.axle]) ++ (if s.tbu.active.load = s.tbu.shadow.load then [] else [.load]) ++
    (if s.tbu.active.channel = s.tbu.shadow.channel then [] else [.channel]) ++
    (if s.tbu.active.roll = s.tbu.shadow.roll then [] else [.roll]) ++ (if s.tbu.active.tyre = s.tbu.shadow.tyre then [] else [.tyre]) ++
    (if s.tbu.active.supply = s.tbu.shadow.supply then [] else [.supply]) ++
    if s.tbu.active.alert = s.tbu.shadow.alert then [] else [.alert]

/-- R152, R155: the insertion has the room it needs. -/
def State.roomToInsert (s : State) : Prop := s.changedTables = [] ∨ s.hasRoom (s.changedTables.map slotsOf)

/-- R47 to R49: an axle's load record at an insertion (outside RUN: notes/assumptions/22.md). -/
def State.insertedAxle (s : State) (a : Fin 4) : LoadRecord :=
  let r := s.lap.axles[a]
  let old := s.tbu.active
  let new := s.tbu.shadow
  let same : Bool := decide (old.load.counts[a] = new.load.counts[a]) &&
    (List.range 8).all fun j => old.load.points[8 * a.val + j]? == new.load.points[8 * a.val + j]?
  match old.axle[a].present, new.axle[a].present with
  | false, true =>
    { r with
      bag := none, lRaw := none, lF := none, status := .unknown, takeWhole := true, silent := false,
      staleTimer := if s.apu.power = .run then s.starting 1000 else none, fallbackTimer := none }
  | true, false =>
    { r with
      bag := none, lRaw := none, lF := none, status := .unknown, takeWhole := false, silent := false, staleTimer := none,
      fallbackTimer := none }
  | true, true => if same then r else { r with lRaw := r.bag.map (rawLoad new.load a), takeWhole := true }
  | false, false => r

/-- R105: the rollover unit at an insertion, but for its thresholds. -/
def State.insertedRou (s : State) : Rou :=
  match s.tbu.active.roll.enabled, s.tbu.shadow.roll.enabled with
  | true, false =>
    { s.rou with
      state := .off .disabled, lateralTimer := none, lockoutTimer := none, holdTimer := none, probeDone := false, sensorLost := false }
  | false, true =>
    { s.rou with state := .quiet, lateralTimer := if s.apu.power = .run then s.starting 200 else none, goodCount := 0 }
  | _, _ => s.rou

/-- R125: an entry at an insertion. -/
def State.insertedBound (s : State) (b : Bound) : Bound :=
  match bindingValid s.tbu.active.axle b.binding, bindingValid s.tbu.shadow.axle b.binding with
  | true, false => { b with reading := {} }
  | false, true => { b with reading := { missingTimer := s.starting s.missingLength } }
  | _, _ => b

/-- R142: the tags that an insertion answers CANCELLED, the learn window's first. -/
def State.endedByInsertion (s : State) : List Tag :=
  (s.twu.learn.filter fun w => !bindingValid s.tbu.shadow.axle w.binding).toList.map (·.tag) ++
    (s.twu.half.filter fun h => !bindingValid s.tbu.shadow.axle h.binding).toList.map (·.tag)

/-- R47, R48, R75, R105, R125, R142, R152, R155, R156: an insertion has been performed. -/
def State.inserted (s : State) : State :=
  { s with
    lap := { s.lap with axles := Vector.ofFn fun a => s.insertedAxle a },
    wcu := { s.wcu with channels := Vector.ofFn fun c =>
      if s.tbu.active.channel.entries[c] = s.tbu.shadow.channel.entries[c] then s.wcu.channels[c]
      else
        { command := s.wcu.channels[c].command, lastSent := 0, mask := none, awaiting := false, missCount := 0, lastReply := none,
          refreshTimer := none, request := s.tbu.shadow.channel.entries[c].present && !s.wcu.suspended } },
    rou := s.insertedRou,
    twu := { s.twu with
      entries := Vector.ofFn fun i => (s.twu.entries[i]).map s.insertedBound,
      learn := s.twu.learn.filter fun w => bindingValid s.tbu.shadow.axle w.binding,
      half := s.twu.half.filter fun h => bindingValid s.tbu.shadow.axle h.binding },
    tbu := { s.tbu with active := s.tbu.shadow, differs := false },
    apu := { s.apu with configured := (List.finRange 6).any fun c => s.tbu.shadow.channel.entries[c].present },
    rst := { s.rst with queue := s.rst.queue ++ s.changedTables.map (tableRecord s.tbu.shadow) } }

/-! ## Relaying, cancelling and the record store's writing (chapters 8 and 10) -/

/-- The command of an addressed frame's own row. -/
def rearwardCommand : RearwardFrame → Instr
  | .request code r => requestCommand code r
  | .tableWrite w => .tableWrite w

/-- An addressed frame with another target. -/
def aimRearward : RearwardFrame → Nat → RearwardFrame
  | .request code r, p => .request code { r with target := BitVec.ofNat 4 p }
  | .tableWrite w, p => .tableWrite { w with target := BitVec.ofNat 4 p }

/-- R166, R172: a free rear transmitter in RUN takes the demand slot's frame, else the oldest of the rear queue. -/
def State.rearTaken (s : State) : State :=
  match s.lru.rearTx, s.lru.demandSlot, s.lru.rearQueue with
  | none, some d, _ => { s with lru := { s.lru with rearTx := some d, demandSlot := none } }
  | none, none, f :: rest => { s with lru := { s.lru with rearTx := some f, rearQueue := rest } }
  | _, _, _ => s

/-- R166: a frame joins the rear queue and the rear transmitter takes what waits. -/
def State.rearQueued (s : State) (f : CanFrame) : State :=
  ({ s with lru := { s.lru with rearQueue := s.lru.rearQueue ++ [f] } } : State).rearTaken

/-- R166, R174: a drop sets RELAY_OVERFLOW unless it is set already. -/
def State.overflowed (s : State) : State :=
  if s.apu.alerts[AlertKind.relayOverflow.index].flag then s else s.withAlert AlertKind.relayOverflow.index { flag := true, ack := false }

/-- R177: a drop also produces an ALERT frame: RELAY_OVERFLOW was clear, and it is enabled and URGENT. -/
def State.overflowAlerts (s : State) : Prop :=
  s.apu.alerts[AlertKind.relayOverflow.index].flag = false ∧ s.tbu.active.alert[AlertKind.relayOverflow.index].enable = true ∧
    s.tbu.active.alert[AlertKind.relayOverflow.index].urgent = true

/-- The service actuation is over (R73, R74). -/
def State.serviceOver (s : State) : State :=
  match s.wcu.service with
  | .held _ _ _ => { s with wcu := { s.wcu with service := .none }, lru := { s.lru with slotService := none } }
  | .running _ _ => { s with wcu := { s.wcu with trainB := s.wcu.trainB.stopped, service := .none } }
  | .none => s

/-- R170: what CANCEL of a request code ends, by its tag, and the state once it is ended. -/
def State.Cancels (s : State) : Nat → Option Tag → State → Prop
  | 3, tag, E => tag = s.asv.heldRelease.map (·.tag) ∧ E = s.releaseOver
  | 6, tag, E =>
    tag = s.tbu.heldInsert ∧ E = { s with tbu := { s.tbu with heldInsert := none }, lru := { s.lru with slotInsert := none } }
  | 7, tag, E => tag = s.twu.learn.map (·.tag) ∧ E = s.learnOver
  | 10, tag, E => tag = s.twu.half.map (·.tag) ∧ E = s.halfOver
  | 15, tag, E =>
    tag = (match s.wcu.service with | .held x _ _ => some x | .running x _ => some x | .none => none) ∧ E = s.serviceOver
  | _, _, _ => False

/-- R195: rebase record number `i`: the seven active tables in order, then every bound entry in entry order. -/
def State.Rebases (s : State) (i : Nat) (r : Record) : Prop :=
  (∃ id : TableId, i + 1 = id.code ∧ r = tableRecord s.tbu.active id) ∨
    ∃ (e : Fin 20) (b : Bound), i = 7 + e.val ∧ s.twu.entries[e] = some b ∧ r = regRecord e (some b)

/-- R190, R194, R195: what the end of a write leaves, and the frames it sends. -/
inductive State.WriteEnds (s : State) : State → List CanFrame → Prop
  | plain : s.rst.erase = none ∨ (∃ tag, s.rst.erase = some { tag := tag, phase := .erasing }) →
      WriteEnds s { s with rst := { s.rst with writing := none } } []
  | erase (tag : Tag) : s.rst.erase = some { tag := tag, phase := .waiting } →
      WriteEnds s { s with rst := { s.rst with writing := none, erase := some { tag := tag, phase := .erasing } } } []
  | rebase (tag : Tag) (n i : Nat) (r : Record) : s.rst.erase = some { tag := tag, phase := .rebasing n } → n ≤ i → s.Rebases i r →
      (∀ k x, n ≤ k → k < i → ¬s.Rebases k x) →
      WriteEnds s
        { s with rst := { s.rst with
            writing := some { record := r, start := s.rst.writePos, stage := .header }, writePos := s.rst.writePos + r.length,
            erase := some { tag := tag, phase := .rebasing (i + 1) } } } []
  | rebased (tag : Tag) (n : Nat) : s.rst.erase = some { tag := tag, phase := .rebasing n } → (∀ k x, n ≤ k → ¬s.Rebases k x) →
      WriteEnds s { s with rst := { s.rst with writing := none, erase := none } } [response s.lru.position tag .done .noReason []]

/-- R190 step 5: the last VALID TABLE record of a table that stands before a slot. -/
def isPredecessor (m : Memory) (bound : Nat) (code : Byte) (n : Nat) : Prop :=
  let one (n : Nat) : Prop :=
    Scans m bound (fun _ => False) 0 n ∧ n < bound ∧ (recordAt m bound n).isSome = true ∧ validOf m .table n ∧ m.read (16 * n + 4) = code
  one n ∧ ∀ k, one k → k ≤ n

/-- R195: a rebase is in flight. -/
def Rst.Rebases (x : Rst) : Prop := ∃ tag n, x.erase = some { tag := tag, phase := .rebasing n }

/-- R190, R195: the step of a write that has been written, what stands next, `none` at the end of the write; a rebase record has no predecessor to
supersede (notes/assumptions/49.md). -/
def WriteJob.Follows (j : WriteJob) (m : Memory) (rebase : Prop) : Option WriteStage → Prop := fun next =>
  match j.stage with
  | .header => next = some (if 2 ≤ j.record.length then .data 1 else .valid)
  | .data i => next = some (if i + 1 < j.record.length then .data (i + 1) else .valid)
  | .valid =>
    (∀ n, ¬rebase → j.record.kind = .table → isPredecessor m j.start j.record.byte4 n → next = some (.supersede n)) ∧
      ((rebase ∨ j.record.kind ≠ .table ∨ ∀ n, ¬isPredecessor m j.start j.record.byte4 n) → next = none)
  | .supersede _ => next = none

/-- R190, 11.6: the slot of a write's step and what it is written with. -/
def WriteJob.Writes (j : WriteJob) (m : Memory) (slot : Nat) (bytes : SlotBytes) : Prop :=
  match j.stage with
  | .header =>
    slot = j.start ∧
      bytes = slotOfList ([1, BitVec.ofNat 8 j.record.kind.code, BitVec.ofNat 8 j.record.length, 3, j.record.byte4] ++
        j.record.data.take 11)
  | .data i => slot = j.start + i ∧ bytes = slotOfList ([2] ++ (j.record.data.drop (11 + 15 * (i - 1))).take 15)
  | .valid =>
    slot = j.start ∧
      bytes = slotOfList ([1, BitVec.ofNat 8 j.record.kind.code, BitVec.ofNat 8 j.record.length, 1, j.record.byte4] ++
        j.record.data.take 11)
  | .supersede n => slot = n ∧ bytes = (m.readSlot n).set 3 0

end Sys2Proof.Machine
end

