-- ==== Sys2Proof/Certificates/Slice0/Obligations.lean ====
section
/-! DEFINITION. The statements for the provers, from the rules of spec/. A command's own effect is spelled out as a state `E`; what the
closing work of the event makes of `E` is `State.ClosesTo` or `State.HandsTo` of Sys2Proof/Safety.lean, and the values that the blocks form
from one another are the invariants there. -/

open Sys2Proof Sys2Proof.Machine

/-! ## The machine -/

/-- spec/95 and the row's cut: a step is the command at the front of the queue on the state with the rest of the queue. With no command
waiting 1 ms passes on the model's clock: the model's choice, notes/assumptions/1.md. -/
def Obligations.StepRunsFrontCommand : Prop :=
  (∀ (c : Instr) (rest : List Instr) (s : State), step { s with pending := c :: rest } = exec c { s with pending := rest }) ∧
    ∀ s : State, s.pending = [] → step s = .next { s with clock := s.clock + 1 }

/-- Every command ends in a next state with the queue and the model's clock as they were, but for the writing of a slot beyond the 1,024
of the store, an address that does not exist (10.1), which stops (notes/assumptions/31.md); with the store's invariant that does not
happen. -/
def Obligations.CommandsEndInANextState : Prop :=
  ∀ (c : Instr) (s : State),
    ((∃ t, exec c s = .next t ∧ t.pending = s.pending ∧ t.clock = s.clock) ∨
        ∃ readBack j, c = .recordSlotWritten readBack ∧ s.rst.writing = some j ∧ 1024 ≤ j.slot ∧ exec c s = .fault .storeAddress) ∧
      (s.StoreFits → ∃ t, exec c s = .next t)

/-- 11.1, 11.2, 11.4: the frame that a well-formed command arrives as is decoded to that command. -/
def Obligations.FramedCommandsDecode : Prop := ∀ i : Instr, Sys2Proof.Laws.Framed.Statement i

/-- R160, R164, R165: a frame on the tow link acts as the command that its bits spell, whatever row of the table names it (the model's
choice, notes/assumptions/26.md). -/
def Obligations.FramesActByTheirBits : Prop :=
  (∀ (f : RxFrame) (s : State), exec (.towFrameDiscarded f) s = exec (commandOfTowFrame f) s) ∧
    (∀ (code : Byte) (r : Request) (s : State), exec (.requestUnknown code r) s = exec (requestCommand code r) s) ∧
      (∀ (code : Byte) (r : Request) (s : State),
        exec (.requestNotReady (.request code r)) s = exec (requestCommand code r) s ∧
          exec (.requestNotAddressed (.request code r)) s = exec (requestCommand code r) s) ∧
        ∀ (w : TableWriteFrame) (s : State),
          exec (.requestNotReady (.tableWrite w)) s = exec (.tableWrite w) s ∧
            exec (.requestNotAddressed (.tableWrite w)) s = exec (.tableWrite w) s

/-! ## Invariants -/

/-- 10.1: every step keeps the store's bytes in their canonical form. -/
def Obligations.StoreStaysCanonical : Prop := ∀ s t : State, s.StoreWf → step s = .next t → t.StoreWf

/-- 10.1, R188, R190, R195: every step keeps what the store holds, writes and waits for within its 1,024 slots. -/
def Obligations.StoreStaysWithinSlots : Prop := ∀ s t : State, s.StoreFits → step s = .next t → t.StoreFits

/-- 8.1, R49, R166, R172: every step keeps the queues of the links within their capacities, and empty outside RUN, the stale and fallback timers
stopped outside RUN, and the position one of the four places or 0. That an insertion at the entry into STANDBY starts no stale timer is the
model's choice (notes/assumptions/22.md). -/
def Obligations.QueuesStayBounded : Prop :=
  ∀ s t : State, step s = .next t →
    (s.QueuesBounded → t.QueuesBounded) ∧ (s.QuietOutsideRun → t.QuietOutsideRun) ∧ (s.lru.position ≤ 4 → t.lru.position ≤ 4)

/-- R169: every step keeps the held-request slots equal to the tags that their owners hold. -/
def Obligations.HeldSlotsStayMatched : Prop := ∀ s t : State, s.SlotsMatch → step s = .next t → t.SlotsMatch

/-- R130: every step keeps identifiers and bindings unique in the registry. -/
def Obligations.RegistryStaysUnique : Prop := ∀ s t : State, s.RegistryUnique → step s = .next t → t.RegistryUnique

/-- While restore runs, every step leaves the blocks as the reset left them but for what may change during restore. The values that the spec
does not give (train parameters, thresholds, factory tables in both copies, a clear configured mark) are the model's, notes/assumptions/6.md, and
that the loss or return of tow power changes the pin alone is notes/assumptions/20.md. -/
def Obligations.RestoreStaysFresh : Prop := ∀ s t : State, s.Sound → step s = .next t → t.RestoreFresh

/-- R174 to R177, 9.1: after every step each condition alert's flag says whether its condition holds, acknowledged marks stand only beside
set flags of condition alerts, the lamp request and the alert line are what the alert records say, and the changed flag of an enabled URGENT
alert has queued its ALERT frame; within an event each setting and each clearing of a flag produces that frame, and nothing else does. The
handing on of the conditions changes the flag of a condition alert to what its condition says, keeps the acknowledged mark where the flag
stays, and leaves every event alert; what the other work of an event does to them is in State.ClosesTo and State.HandsTo. -/
def Obligations.AlertsStayFollowed : Prop :=
  (∀ s t : State, s.Sound → step s = .next t → t.AlertsFollow ∧ t.AcksHaveFlags ∧ t.LampFollows ∧ s.AlertsSent t) ∧
    ∀ (e : Ev) (k : Fin 23),
      let told (set : Bool) : List Notice :=
        if e.tbu.active.alert[k].enable = true ∧ e.tbu.active.alert[k].urgent = true then [{ kind := k, set := set }] else []
      (e.apu.alerts[k].flag = true → e.raiseAlert k = e) ∧
      (e.apu.alerts[k].flag = false →
        (e.raiseAlert k).apu.alerts[k] = { flag := true, ack := false } ∧ (e.raiseAlert k).notices = e.notices ++ told true) ∧
      (e.apu.alerts[k].flag = false → e.clearAlert k = e) ∧
      (e.apu.alerts[k].flag = true →
        (e.clearAlert k).apu.alerts[k] = { flag := false, ack := false } ∧ (e.clearAlert k).notices = e.notices ++ told false) ∧
      (isEventAlert k = true → e.handConditions.apu.alerts[k] = e.apu.alerts[k]) ∧
      (∀ c ∈ e.conditions, e.handConditions.apu.alerts[c.1.index] = (e.apu.alerts[c.1.index]).handed c.2)

/-- R12, R13, R29, R44, R45: after every step D_eff, the brake activity flag and the load hold are what their inputs say. -/
def Obligations.DemandAndActivityStayFollowed : Prop :=
  ∀ s t : State, s.Sound → step s = .next t → t.DemandFollows ∧ t.ActivityFollows

/-- R36 to R41, R52 to R54, R71: after every step ratios, targets, caps, contributions, final pressures and computed commands are what they
are formed from, and on every wheel end W(w) ≤ F(w) ≤ cap(w). The target of an absent axle is not yet formed right after a reset
(notes/assumptions/23.md), and the command of a channel without wheel ends stays undefined (notes/assumptions/4.md). -/
def Obligations.PressuresStayFollowed : Prop :=
  ∀ s t : State, s.Sound → step s = .next t → t.TargetsFollow ∧ t.WheelsFollow ∧ t.CommandsFollow ∧ t.PressuresOrdered

/-- R42, R43, R80 to R82, R93, R121: after every step the total load, the rollover thresholds, the deflated count and k are what they are formed
from, and where the exit threshold has changed in INTERVENE the hold timer has been tested against it; within an event the forming of the
thresholds tests it at once, and does nothing to it in another state. -/
def Obligations.ThresholdsStayFollowed : Prop :=
  (∀ s t : State, s.Sound → step s = .next t → t.ThresholdsFollow ∧ t.DeflationFollows ∧ s.HoldRetested t) ∧
    ∀ e : Ev,
      let formed := e.formThresholds
      (e.rou.state ≠ .intervene → formed.rou.holdTimer = e.rou.holdTimer) ∧
      (e.rou.state = .intervene →
        (formed.rou.exitT ≤ e.rou.lastSample.natAbs → formed.rou.holdTimer = none) ∧
        (e.rou.lastSample.natAbs < formed.rou.exitT →
          (e.rou.holdTimer ≠ none → formed.rou.holdTimer = e.rou.holdTimer) ∧
          (e.rou.holdTimer = none → formed.rou.holdTimer = e.starting e.tbu.active.roll.hold))) ∧
      formed.rou.core = e.rou.core ∧ { formed with rou := e.rou } = e

/-- R66, 3.6, R17: after every step the reference speed, the suspension of output and the running of the auto-park timer are what their
causes say, and an auto-park timer that the step has started runs for the auto-park delay of the active SUPPLY table. -/
def Obligations.SpeedAndOutputStayFollowed : Prop :=
  ∀ s t : State, s.Sound → step s = .next t → t.SpeedFollows ∧ t.SuspensionFollows ∧ t.AutoParkFollows ∧ s.AutoParkStarts t

/-- The part right after a power-on reset meets every invariant. -/
def Obligations.ResetMeetsInvariants : Prop :=
  State.reset.StoreWf ∧ State.reset.StoreFits ∧ State.reset.QueuesBounded ∧ State.reset.QuietOutsideRun ∧ State.reset.SlotsMatch ∧
    State.reset.RegistryUnique ∧ State.reset.PressuresOrdered ∧ State.reset.Sound

/-! ## What the blocks compute -/

/-- R12, R13: the source of D_eff and D_eff as the air supply supervisor forms it from the active SUPPLY table; output is suspended while it
is undefined. -/
def Obligations.EffectiveDemandIsFormed : Prop :=
  ∀ e : Ev,
    (e.asv.link = .linked → demandSource e.asv = e.asv.lastDemand) ∧
    (e.asv.link = .unlinked → ∀ x, e.asv.lastAir = some x → demandSource e.asv = some x.control) ∧
    (e.asv.link = .unlinked → e.asv.lastAir = none → demandSource e.asv = none) ∧
    (e.asv.supply = .parked → e.formDemand.asv.dEff = some 0) ∧
    (e.asv.supply = .emergency → ∀ d, demandSource e.asv = some d →
      e.formDemand.asv.dEff = some (if d < e.tbu.active.supply.emergencyDemand then e.tbu.active.supply.emergencyDemand else d)) ∧
    (e.asv.supply = .emergency → demandSource e.asv = none → e.formDemand.asv.dEff = some e.tbu.active.supply.emergencyDemand) ∧
    (e.asv.supply ≠ .parked → e.asv.supply ≠ .emergency → e.formDemand.asv.dEff = demandSource e.asv) ∧
    { e.formDemand with asv := { e.formDemand.asv with dEff := e.asv.dEff } } = e ∧ (e.asv.dEff = none → e.outputSuspended = true)

/-- R26, R36, R38: the raw load of an axle with 2 to 8 breakpoints of strictly rising bag pressures and loads that do not fall, the load ratio
of a present axle of a rated load above 0, and the target for a demand, with the bounds that the rules give. -/
def Obligations.LoadsRatiosAndTargetsAreFormed : Prop :=
  (∀ (t : LoadTable) (a : Fin 4) (bag load : Nat → Nat), 2 ≤ t.counts[a] → t.counts[a] ≤ 8 →
      (∀ j, j < t.counts[a] → t.points[8 * a.val + j]? = some { bag := bag j, load := load j }) →
      (∀ j, j + 1 < t.counts[a] → bag j < bag (j + 1) ∧ load j ≤ load (j + 1)) → ∀ b : Nat,
        (b ≤ bag 0 → rawLoad t a b = load 0) ∧
        (bag (t.counts[a] - 1) ≤ b → rawLoad t a b = load (t.counts[a] - 1)) ∧
        (∀ i, i + 1 < t.counts[a] → bag i ≤ b → b < bag (i + 1) →
          rawLoad t a b = load i + (b - bag i) * (load (i + 1) - load i) / (bag (i + 1) - bag i)) ∧
        load 0 ≤ rawLoad t a b ∧ rawLoad t a b ≤ load (t.counts[a] - 1)) ∧
    (∀ (x : AxleEntry) (r : LoadRecord), 0 < x.lRated →
      (∀ l, r.lF = some l → r.status = .live ∨ r.status = .stale → loadRatio x r = min 1000 (max x.rMin (l * 1000 / x.lRated))) ∧
      (r.status = .unknown ∨ r.status = .fallback → loadRatio x r = x.fallback) ∧
      (x.rMin ≤ x.fallback → x.rMin ≤ 1000 → x.fallback ≤ 1000 → x.rMin ≤ loadRatio x r ∧ loadRatio x r ≤ 1000)) ∧
    ∀ d r p0 rMin : Nat, rMin ≤ r → r ≤ 1000 →
      (d ≤ p0 → axleTarget d r p0 = d) ∧ (p0 < d → axleTarget d r p0 = p0 + (d - p0) * r / 1000) ∧ axleTarget d r p0 ≤ d ∧
        (p0 < d → p0 + (d - p0) * rMin / 1000 ≤ axleTarget d r p0)

/-- R27: the load filter of a good sample that is not held, on an axle whose take-whole mark is clear. -/
def Obligations.LoadFilterReachesTheRawLoad : Prop :=
  (∀ (r : LoadRecord) (l bag raw : Nat) (stale : Timer), r.lF = some l → r.wholeMark = false →
      ((r.sample bag raw false stale).lF =
        if ((raw : Int) - l).natAbs < 4 then some raw else some ((l : Int) + Int.tdiv ((raw : Int) - l) 4).toNat)) ∧
    (∀ (r : LoadRecord) (bag raw : Nat) (stale : Timer), (r.sample bag raw true stale).lF = r.lF) ∧
    (∀ l d : Nat, 4 ≤ d → filterLoad l (l + d) = l + d / 4 ∧ filterLoad (l + d) l + d / 4 = l + d ∧ 1 ≤ d / 4) ∧
    (∀ l raw : Nat, ((raw : Int) - l).natAbs < 4 → filterLoad l raw = raw) ∧
    (∀ l raw : Nat, ∃ n, (fun x => filterLoad x raw)^[n] l = raw) ∧
    ∀ l raw : Nat, ((raw : Int) - l).natAbs ≤ 3000 → ∃ n, n < 30 ∧ (fun x => filterLoad x raw)^[n] l = raw

/-- R80: the threshold a_tab of a ROLL table of 2 to 6 breakpoints whose loads rise strictly and whose thresholds do not rise. -/
def Obligations.TabledThresholdIsInterpolated : Prop :=
  ∀ (t : RollTable) (load threshold : Nat → Nat), 2 ≤ t.count → t.count ≤ 6 →
    (∀ j, j < t.count → t.points[j]? = some { load := load j, threshold := threshold j }) →
    (∀ j, j + 1 < t.count → load j < load (j + 1) ∧ threshold (j + 1) ≤ threshold j) → ∀ g : Nat,
      (g ≤ load 0 → tabledThreshold t g = threshold 0) ∧
      (load (t.count - 1) ≤ g → tabledThreshold t g = threshold (t.count - 1)) ∧
      (∀ i, i + 1 < t.count → load i ≤ g → g < load (i + 1) →
        (tabledThreshold t g : Int) =
          threshold i + ((g : Int) - load i) * ((threshold (i + 1) : Int) - threshold i) / ((load (i + 1) : Int) - load i)) ∧
      threshold (t.count - 1) ≤ tabledThreshold t g ∧ tabledThreshold t g ≤ threshold 0

/-- R83: the sides and the sign of a lateral sample. -/
def Obligations.SignsAndSidesAreFormed : Prop :=
  Sign.positive.inner = .left ∧ Sign.negative.inner = .right ∧
    (∀ (g : Sign) (a : Int), g.reversed a = true ↔ a ≠ 0 ∧ ((g = .positive ∧ a < 0) ∨ (g = .negative ∧ 0 < a))) ∧
    (∀ (g : Sign) (a : Int), (g.reversed a = false → g.after a = g) ∧ (g.reversed a = true → g.after a ≠ g)) ∧
    (∀ g : Sign, g.reversed 0 = false ∧ g.after 0 = g) ∧
    (∀ (r : Rou) (a : Int) (timer : Timer), (r.store a timer).sign = r.sign.after a) ∧
    (∀ (s : State) (c : Fin 6), s.innerChannels[c] = true ↔
      s.tbu.active.channel.entries[c].present = true ∧ s.tbu.active.channel.entries[c].side = s.rou.sign.inner) ∧
    (∀ s : State, s.rou.sign.inner = s.innerSide) ∧
    State.reset.rou.sign = .positive ∧ ∀ (s : State) (towPower : Bool) (cause : ResetCause), (s.restart towPower cause).rou.sign = .positive

/-- R113: the adjusted reference pressure, the four thresholds, their bounds and their order. -/
def Obligations.TyreThresholdsAreFormed : Prop :=
  (∀ (p : Nat) (t : Int), adjusted p t = ((p : Int) + 100) * (t + 273) / 293 - 100) ∧
    (∀ (adj : Int) (ratio : Nat), tyreThreshold adj ratio = adj * ratio / 1000) ∧
    (∀ (r : Reading) (t : TyreTable) (adj : Int) (x : Telegram) (m w : Timer), (r.accept t adj x m w).adj = some adj) ∧
    ∀ (p : Nat) (t : Int) (y : TyreTable), 200 ≤ p → p ≤ 1200 → -40 ≤ t → t ≤ 150 → y.deflate < y.alarm → y.alarm < y.warn →
      y.warn < 1000 → 1000 < y.high →
        138 ≤ adjusted p t ∧ adjusted p t ≤ 1776 ∧
          tyreThreshold (adjusted p t) y.deflate ≤ tyreThreshold (adjusted p t) y.alarm ∧
          tyreThreshold (adjusted p t) y.alarm ≤ tyreThreshold (adjusted p t) y.warn ∧
          tyreThreshold (adjusted p t) y.warn < adjusted p t ∧ adjusted p t ≤ tyreThreshold (adjusted p t) y.high

/-- R114 to R117: the candidate level by the first line that applies, the new level with its hysteresis, and the hot flag. An accepted telegram
gives the reading both, and clears the mark by which a missing position counts as deflated; the hot flag clears when the level becomes MISSING
and in an entry that an insertion leaves dormant. -/
def Obligations.TyreLevelsAreFormed : Prop :=
  (∀ (y : TyreTable) (adj : Int) (p : Nat) (rapid : Bool),
    ((p : Int) < tyreThreshold adj y.deflate ∨ p < 100 ∨ (rapid = true ∧ (p : Int) < tyreThreshold adj y.warn) →
      candidateLevel y adj p rapid = .deflated) ∧
    (¬((p : Int) < tyreThreshold adj y.deflate ∨ p < 100 ∨ (rapid = true ∧ (p : Int) < tyreThreshold adj y.warn)) →
      ((p : Int) < tyreThreshold adj y.alarm → candidateLevel y adj p rapid = .lowAlarm) ∧
      (tyreThreshold adj y.alarm ≤ p → (p : Int) < tyreThreshold adj y.warn → candidateLevel y adj p rapid = .lowWarn) ∧
      (tyreThreshold adj y.alarm ≤ p → tyreThreshold adj y.warn ≤ p → tyreThreshold adj y.high < p →
        candidateLevel y adj p rapid = .high) ∧
      (tyreThreshold adj y.alarm ≤ p → tyreThreshold adj y.warn ≤ p → (p : Int) ≤ tyreThreshold adj y.high →
        candidateLevel y adj p rapid = .normal)) ∧
    (∀ before : Level, before ≠ .lowWarn → before ≠ .lowAlarm → before ≠ .deflated →
      newLevel y adj p rapid before = candidateLevel y adj p rapid) ∧
    (∀ before : Level, before = .lowWarn ∨ before = .lowAlarm ∨ before = .deflated →
      newLevel y adj p rapid before =
        if before.severity ≤ (candidateLevel y adj p rapid).severity ∨
            tyreThreshold adj (if before = .lowWarn then y.warn else y.alarm) * (1000 + y.hysteresis) / 1000 ≤ p then
          candidateLevel y adj p rapid
        else before) ∧
    ∀ (limit : Nat) (t : Int) (before : Bool),
      ((limit : Int) ≤ t → newHot limit t before = true) ∧ (t ≤ (limit : Int) - 5 → newHot limit t before = false) ∧
        ((limit : Int) - 5 < t → t < limit → newHot limit t before = before)) ∧
  (∀ (r : Reading) (y : TyreTable) (adj : Int) (x : Telegram) (missing window : Timer),
    let accepted := r.accept y adj x missing window
    accepted.level = newLevel y adj x.pressure x.rapidLoss r.level ∧ accepted.hot = newHot y.hotLimit x.temperature r.hot ∧
      accepted.deflMissing = false) ∧
  (∀ r : Reading, r.miss.level = .missing ∧ r.miss.hot = false) ∧
  ∀ (e : Ev) (old : Vector AxleEntry 4) (i : Fin 20) (b : Bound), e.twu.entries[i] = some b → bindingValid old b.binding = true →
    bindingValid e.tbu.active.axle b.binding = false →
      ∃ d, (e.insertReadings old).twu.entries[i] = some d ∧ d.reading.level = .unknown ∧ d.reading.hot = false

/-! ## Resets, restore and power (9.8, 9.9, 10.4) -/

/-- R183, R184, R186, R192: every reset gives every field its reset value, keeps the store's bytes and finds the write position; the
commanded reset takes place when the tow transmitter has finished with RESET's DONE, and in place of the entry into STANDBY while that DONE
waits in the forward queue. The reset values that the spec does not give are the model's, notes/assumptions/6.md. -/
def Obligations.ResetsRestartThePart : Prop :=
  ∀ s : State,
    (∀ p, exec (.powerOnReset p) s = .next (s.afterReset p { powerOn := true, brownOut := false, commanded := false })) ∧
    (∀ p, exec (.brownOutReset p) s = .next (s.afterReset p { s.apu.cause with brownOut := true })) ∧
    (∀ f, s.lru.towTx = some f → f.resetDone = true → ∀ c ∈ [Instr.towTxDone, Instr.towTxAbandon],
      exec c s = .next (s.afterReset s.apu.towPower { s.apu.cause with commanded := true })) ∧
    (s.apu.power = .run → s.rst.restore = none → s.apu.resetPending = true → (∃ f ∈ s.lru.forwardQueue, f.resetDone = true) →
      exec .towPowerLoss s = .next (s.afterReset false { s.apu.cause with commanded := true })) ∧
    (s.StoreWf →
      (∀ n, n < 1024 → s.rst.memory.read (16 * n) ≠ 255 → n < s.rst.memory.writePosition) ∧
        (s.rst.memory.writePosition = 0 ∨
          s.rst.memory.writePosition ≤ 1024 ∧ s.rst.memory.read (16 * (s.rst.memory.writePosition - 1)) ≠ 255))

/-- R192, R143, 11.6: restore reads the slots in order, takes a recognised record whole at its header slot (notes/assumptions/12.md), and of
the VALID records takes a TABLE record as its table's candidate and a REG_ENTRY record into the registry, where it empties the entries that
conflict with it. A record of a state byte that R192 does not name is skipped whole (notes/assumptions/41.md), a TABLE record of no table
(notes/assumptions/42.md) and a REG_ENTRY record of no entry or binding (notes/assumptions/32.md) are passed over, and the fields that a
TABLE record is too short for are free (notes/assumptions/4.md). -/
def Obligations.RestoreReadsSlots : Prop :=
  ∀ (s : State) (r : Restore), s.rst.restore = some r → r.next < s.rst.writePos →
    let m := s.rst.memory
    let n := r.next
    let on (x : Restore) : State := { s with rst := { s.rst with restore := some x } }
    (n < r.skipTo ∨ recordAt m s.rst.writePos n = none → exec .restoreSlotRead s = .next (on { r with next := n + 1 })) ∧
    ∀ length, r.skipTo ≤ n → recordAt m s.rst.writePos n = some length →
      let past : Restore := { r with next := n + 1, skipTo := n + length }
      (stateAt m n ≠ 1 ∨ (kindAt m n ≠ some .table ∧ kindAt m n ≠ some .regEntry) → exec .restoreSlotRead s = .next (on past)) ∧
      (stateAt m n = 1 → kindAt m n = some .table →
        (∀ id, TableId.ofCode (m.read (16 * n + 4)).toNat = some id →
          exec .restoreSlotRead s = .next (on { past with candidates := tableOfData r.candidates id (dataAt m n length) })) ∧
        (TableId.ofCode (m.read (16 * n + 4)).toNat = none → exec .restoreSlotRead s = .next (on past))) ∧
      (stateAt m n = 1 → kindAt m n = some .regEntry →
        (regEntryOf (dataAt m n length) = none → exec .restoreSlotRead s = .next (on past)) ∧
        (∀ i, regEntryOf (dataAt m n length) = some (i, none) →
          exec .restoreSlotRead s = .next { (on past) with twu := { s.twu with entries := s.twu.entries.set i none } }) ∧
        ∀ i ident binding, regEntryOf (dataAt m n length) = some (i, some (ident, binding)) →
          ∃ entries : Vector (Option Bound) 20,
            exec .restoreSlotRead s = .next { (on past) with twu := { s.twu with entries := entries } } ∧
              entries[i] = some { ident := ident, binding := binding, reading := {} } ∧
              ∀ j : Fin 20, j ≠ i →
                (∀ b, s.twu.entries[j] = some b → b.ident = ident ∨ b.binding = binding → entries[j] = none) ∧
                ((∀ b, s.twu.entries[j] = some b → b.ident ≠ ident ∧ b.binding ≠ binding) → entries[j] = s.twu.entries[j]))

/-- R192, R183: once every slot up to the write position has been read restore ends: the tables take their candidates, every block starts by
its own rule, a RESET record is queued, and tow power as it then stands decides between RUN and STANDBY (notes/assumptions/20.md). -/
def Obligations.RestoreEnds : Prop :=
  ∀ (s : State) (r : Restore), s.rst.restore = some r → s.rst.writePos ≤ r.next → s.SlotsMatch →
    (s.apu.towPower = true → ∃ t, exec .restoreEnd s = .next t ∧
      (State.holdAs
        { (s.restored r.candidates) with
          apu := { (s.restored r.candidates).apu with power := .run, statusTimer := s.starting 100 } } s t).ClosesTo t) ∧
    (s.apu.towPower = false → ∃ t, exec .restoreEnd s = .next t ∧ (s.restored r.candidates).inStandby.ClosesTo t)

/-- R181, R182, R183, R128, R172, R176: the loss of tow power in RUN is the entry into STANDBY, its return outside RUN is the return to RUN,
and the expiry of the standby timer is the entry into SLEEP; during restore (notes/assumptions/20.md), and where the power state already
fits, only the pin changes. That a poll which has outlived its operation stays pending at the entry is the model's choice
(notes/assumptions/14.md). -/
def Obligations.TowPowerComesAndGoes : Prop :=
  ∀ s : State,
    let lost : State := { s with apu := { s.apu with towPower := false } }
    let back : State := { s with apu := { s.apu with towPower := true } }
    (s.apu.power = .run → s.rst.restore = none → s.SlotsMatch →
      (s.apu.resetPending = false ∨ ∀ f ∈ s.lru.forwardQueue, f.resetDone = false) →
      ∃ t, exec .towPowerLoss s = .next t ∧ lost.inStandby.ClosesTo t) ∧
    (s.apu.power ≠ .run ∨ s.rst.restore ≠ none → exec .towPowerLoss s = .next lost) ∧
    (s.apu.power ≠ .run → s.rst.restore = none → ∃ t, exec .towPowerReturn s = .next t ∧ (s.returned.holdAs s t).ClosesTo t) ∧
    (s.apu.power = .run ∨ s.rst.restore ≠ none → exec .towPowerReturn s = .next back) ∧
    (s.apu.power = .standby → s.apu.standbyTimer ≠ none → ∃ t, exec .standbyTimerExpiry s = .next t ∧
      State.HandsTo
        { s with
          twu := { s.twu with entries := Vector.ofFn fun i => s.twu.entries[i].map fun b =>
            { b with reading := { b.reading with
                missingTimer := none, repeatWindow := none, stale := b.reading.stale || b.reading.pressure.isSome } } },
          apu := { s.apu with power := .sleep, standbyTimer := none } } t ∧ t.apu.alertLine = false) ∧
    (s.apu.power ≠ .standby ∨ s.apu.standbyTimer = none → exec .standbyTimerExpiry s = .next s)

/-- R98, R104, R110, R178, R184, 11.2: the seconds count, the end of the lockout and the end of a repeat window change nothing else, and the
expiry of the status timer restarts it and queues a STATUS frame forward. -/
def Obligations.TicksPassAndStatusIsSent : Prop :=
  ∀ s : State,
    exec .secondsTick s =
      .next { s with apu := { s.apu with seconds := if s.apu.seconds < 4294967295 then s.apu.seconds + 1 else 4294967295 } } ∧
    exec .lockoutTimerExpiry s = .next { s with rou := { s.rou with lockoutTimer := none } } ∧
    (∀ i : Fin 20, exec (.repeatWindowEnd i) s =
      .next { s with twu := { s.twu with
        entries := s.twu.entries.set i (s.twu.entries[i].map fun b => { b with reading := { b.reading with repeatWindow := none } }) } }) ∧
    (s.apu.statusTimer = none → exec .statusTimerExpiry s = .next s) ∧
    (s.apu.statusTimer ≠ none → s.apu.power = .run → s.roomForward 1 → ∃ t, exec .statusTimerExpiry s = .next t ∧
      State.Answers { s with apu := { s.apu with statusTimer := s.starting 100 } } t
        [{ id := linkId 10 s.lru.position,
           data := packBytes
             [BitVec.ofNat 8
                (s.asv.supply.code * 32 + (if s.asv.link = .linked then 16 else 0) +
                  (if (s.rou.state = .intervene ∨ s.rou.state = .holdoff) ∧ s.tbu.active.roll.shadow = false then 8 else 0) +
                  (if s.apu.lamp then 4 else 0) + if s.apu.configured then 2 else 0),
              BitVec.ofNat 8 s.rou.state.code, BitVec.ofNat 8 (s.asv.dEff.getD 65535 / 256), BitVec.ofNat 8 (s.asv.dEff.getD 65535),
              BitVec.ofNat 8 (s.lap.totalLoad / 256), BitVec.ofNat 8 s.lap.totalLoad, BitVec.ofNat 8 s.highestPending,
              BitVec.ofNat 8 ((List.finRange 23).filter fun k => s.isPending k).length] }]) ∧
    (∀ k : Fin 23, s.isPending k = true → (∀ j : Fin 23, j < k → s.isPending j = false) → s.highestPending = k.val + 1) ∧
    ((∀ k : Fin 23, s.isPending k = false) → s.highestPending = 0)

/-! ## Air supply, parking and the tow link's demands (chapter 1, 8.3) -/

/-- R1, R2, R8 to R13, R20, R22: an AIR_SAMPLE with status OK in RUN is stored, clamped, tested against the supply state and then against the
release conditions of a held release; any other changes nothing (in restore with tow power absent: notes/assumptions/21.md). -/
def Obligations.AirSamplesAreTested : Prop :=
  ∀ (s : State) (supply reservoir control : BitVec 16) (status : Byte),
    let x : AirSample := { supply := min 1000 supply.toNat, reservoir := min 1000 reservoir.toNat, control := min 1000 control.toNat }
    (s.apu.power = .run → status = 0 → ∃ t, exec (.airSample supply reservoir control status) s = .next t ∧
      ((s.airTested x).releaseTested x).ClosesTo t) ∧
    (s.apu.power ≠ .run ∨ status ≠ 0 → exec (.airSample supply reservoir control status) s = .next s)

/-- R2, R5, R17: the expiry of the air sample timer, of the link timer and of the auto-park timer; a timer that does not run does not expire
(notes/assumptions/5.md). -/
def Obligations.AirTimersExpire : Prop :=
  ∀ s : State,
    (s.asv.airTimer ≠ none → ∃ t, exec .airSampleTimerExpiry s = .next t ∧ s.airSilent.ClosesTo t) ∧
    (s.asv.airTimer = none → exec .airSampleTimerExpiry s = .next s) ∧
    (s.asv.linkTimer ≠ none → ∃ t, exec .linkTimerExpiry s = .next t ∧ s.linkSilent.ClosesTo t) ∧
    (s.asv.linkTimer = none → exec .linkTimerExpiry s = .next s) ∧
    (s.asv.autoParkTimer ≠ none → ∃ t, exec .autoParkTimerExpiry s = .next t ∧
      (({ s with asv := { s.asv with autoParkTimer := none } } : State).withValve .apply none true).ClosesTo t) ∧
    (s.asv.autoParkTimer = none → exec .autoParkTimerExpiry s = .next s)

/-- R3, R4, R6, R161 to R163, R166, R172: a DEMAND frame in RUN sets the position, is copied rearward with its hop one higher, and is taken by
the supervisor by its sequence number; what a changed position ends is answered CANCELLED in order, from the new position. Bytes 5 to 7 of
the copy are 0 (notes/assumptions/33.md). -/
def Obligations.DemandFramesAreTaken : Prop :=
  ∀ (s : State) (pressure : BitVec 16) (hop seq : BitVec 4) (speed : BitVec 16),
    let E := ((s.placed hop).copied pressure hop seq speed).demanded pressure seq speed
    let ended := if placeOf hop = s.lru.position then [] else s.endedByMove
    (s.apu.power = .run → s.SlotsMatch → ∃ t, exec (.demand pressure hop seq speed) s = .next t ∧ E.ClosesTo t ∧
      (s.roomForward ended.length →
        E.Sends t (ended.map fun tag => response (placeOf hop) tag .cancelled .noReason []))) ∧
    (s.apu.power ≠ .run → exec (.demand pressure hop seq speed) s = .next s)

/-- R8, R14 to R17: a VALVE_REPLY of node 31 against an operation that has been sent, the 50 ms after a MOVING reply, and the valve timer; the
requester, if there is one, is answered at the end of its operation; with no operation in progress nothing changes. A poll that waits
outlives its operation (notes/assumptions/14.md), an APPLY of the auto-park timer that a request has joined still records AUTO_PARKED
(notes/assumptions/15.md), and of several polls to come the earliest is the one that is due (notes/assumptions/36.md). -/
def Obligations.ValveOperationsProceed : Prop :=
  (∀ (s : State) (node : BitVec 5) (position : Byte), s.asv.valveOp = none →
    exec (.valveReply node position) s = .next s ∧ exec .valvePollDue s = .next s ∧ exec .valveTimerExpiry s = .next s) ∧
  ∀ (s : State) (op : ValveOp), s.asv.valveOp = some op →
    (∀ (position : Byte), s.apu.power = .run → op.phase ≠ .pending →
      (position = 1 → op.kind ≠ .release → ∃ t, exec (.valveReply 31 position) s = .next t ∧
        (s.valveOver.appliedTo op.auto).ClosesTo t ∧
        (s.roomForward op.requester.toList.length →
          (s.valveOver.appliedTo op.auto).Sends t (completion s.lru.position op.requester .done))) ∧
      (position = 2 → op.kind ≠ .apply → ∃ t, exec (.valveReply 31 position) s = .next t ∧ s.valveOver.releasedTo.ClosesTo t ∧
        (s.roomForward op.requester.toList.length →
          s.valveOver.releasedTo.Sends t (completion s.lru.position op.requester .done))) ∧
      ((position = 1 ∧ op.kind = .release) ∨ (position = 2 ∧ op.kind = .apply) →
        ∃ t, exec (.valveReply 31 position) s = .next t ∧ s.ClosesTo t) ∧
      (position = 3 → ∃ t, exec (.valveReply 31 position) s = .next t ∧
        State.ClosesTo { s with asv := { s.asv with
          valveOp := some { op with phase := .polling, polls := op.polls ++ (s.starting 50).toList } } } t) ∧
      (position ≠ 1 → position ≠ 2 → position ≠ 3 → ∃ t, exec (.valveReply 31 position) s = .next t ∧ s.valveFailed.ClosesTo t ∧
        (s.roomForward op.requester.toList.length →
          s.valveFailed.Sends t (completion s.lru.position op.requester .failed)))) ∧
    (∀ (node : BitVec 5) (position : Byte), s.apu.power ≠ .run ∨ node ≠ 31 ∨ op.phase = .pending →
      exec (.valveReply node position) s = .next s) ∧
    (∀ poll rest, op.polls = poll :: rest → ∃ t, exec .valvePollDue s = .next t ∧
      State.ClosesTo
        { s with
          asv := { s.asv with valveOp := some { op with polls := rest } }, wcu := { s.wcu with pendingValve := some .query } } t) ∧
    (op.polls = [] → exec .valvePollDue s = .next s) ∧
    (op.valveTimer ≠ none → ∃ t, exec .valveTimerExpiry s = .next t ∧ s.valveFailed.ClosesTo t ∧
      (s.apu.power = .run → s.roomForward op.requester.toList.length →
        s.valveFailed.Sends t (completion s.lru.position op.requester .failed))) ∧
    (op.valveTimer = none → exec .valveTimerExpiry s = .next s)

/-- R20, R73, R135, R140: the expiry of a held release's, a held service actuation's, the learn window's and the exchange half's timer ends it
with TIMEOUT. -/
def Obligations.HeldTimersExpire : Prop :=
  ∀ s : State, s.apu.power = .run → s.roomForward 1 →
    let timeout (tag : Tag) : List CanFrame := [response s.lru.position tag .timeout .noReason []]
    (∀ h, s.asv.heldRelease = some h → ∃ t, exec .releaseHoldTimerExpiry s = .next t ∧ s.releaseOver.Answers t (timeout h.tag)) ∧
    (s.asv.heldRelease = none → exec .releaseHoldTimerExpiry s = .next s) ∧
    (∀ tag args timer, s.wcu.service = .held tag args timer → ∃ t, exec .serviceHoldTimerExpiry s = .next t ∧
      State.Answers { s with wcu := { s.wcu with service := .none }, lru := { s.lru with slotService := none } } t (timeout tag)) ∧
    (s.wcu.service.heldTag = none → exec .serviceHoldTimerExpiry s = .next s) ∧
    (∀ w, s.twu.learn = some w → ∃ t, exec .learnTimerExpiry s = .next t ∧
      State.Answers { s with twu := { s.twu with learn := none } } t (timeout w.tag)) ∧
    (s.twu.learn = none → exec .learnTimerExpiry s = .next s) ∧
    (∀ h, s.twu.half = some h → ∃ t, exec .exchangeTimerExpiry s = .next t ∧
      State.Answers { s with twu := { s.twu with half := none } } t (timeout h.tag)) ∧
    (s.twu.half = none → exec .exchangeTimerExpiry s = .next s)

/-- R18 to R20: PARK_APPLY and PARK_RELEASE. Their ACCEPTED comes after what the request brings about (notes/assumptions/9.md). -/
def Obligations.ParkRequestsAreDecided : Prop :=
  (∀ (s : State) (r : Request), s.Serves r.target → s.SlotsMatch →
    let answer (x : Result) (why : Reason) : CanFrame := response s.lru.position r.tag x why []
    let ended : List CanFrame := s.releaseTags.map fun tag => response s.lru.position tag .cancelled .noReason []
    let E := s.releaseOver.withValve .apply (some r.tag) false
    (20 < s.wcu.refSpeed → s.roomForward 1 → ∃ t, exec (.parkApply r) s = .next t ∧ s.Answers t [answer .refused .moving]) ∧
    (s.wcu.refSpeed ≤ 20 → s.asv.supply = .parked → s.roomForward 2 → ∃ t, exec (.parkApply r) s = .next t ∧
      s.releaseOver.Answers t (ended ++ [answer .done .noReason])) ∧
    (∀ op, s.wcu.refSpeed ≤ 20 → s.asv.supply ≠ .parked → s.asv.valveOp = some op → op.kind = .apply → s.roomForward 1 →
      (op.requester ≠ none → ∃ t, exec (.parkApply r) s = .next t ∧ s.Answers t [answer .refused .busy]) ∧
      (op.requester = none → ∃ t, exec (.parkApply r) s = .next t ∧
        State.Answers { s with asv := { s.asv with valveOp := some { op with requester := some r.tag } } } t
          [answer .accepted .noReason])) ∧
    (s.wcu.refSpeed ≤ 20 → s.asv.supply ≠ .parked → (∀ op, s.asv.valveOp = some op → op.kind ≠ .apply) →
      let abandoned := completion s.lru.position (s.asv.valveOp.bind (·.requester)) .cancelled
      ∃ t, exec (.parkApply r) s = .next t ∧ E.ClosesTo t ∧ (s.roomForward 2 → E.Sends t (ended ++ abandoned)) ∧
        (E.Calm → s.roomForward 3 → E.Sends t (ended ++ abandoned ++ [answer .accepted .noReason])))) ∧
  ∀ (s : State) (r : Request), s.Serves r.target → s.roomForward 1 →
    let answer (x : Result) (why : Reason) : List CanFrame := [response s.lru.position r.tag x why []]
    let busy := (∃ op, s.asv.valveOp = some op ∧ op.kind = .release) ∨ s.asv.heldRelease ≠ none
    let E := s.withValve .release (some r.tag) false
    (s.asv.supply ≠ .parked → ∃ t, exec (.parkRelease r) s = .next t ∧ s.Answers t (answer .done .noReason)) ∧
    (s.asv.supply = .parked → busy → ∃ t, exec (.parkRelease r) s = .next t ∧ s.Answers t (answer .refused .busy)) ∧
    (s.asv.supply = .parked → ¬busy → s.airReleases → ∃ t, exec (.parkRelease r) s = .next t ∧ E.ClosesTo t ∧
      (E.Calm → E.Sends t (answer .accepted .noReason))) ∧
    (s.asv.supply = .parked → ¬busy → ¬s.airReleases → r.flags.toNat % 2 = 0 → ∃ t, exec (.parkRelease r) s = .next t ∧
      s.Answers t (answer .refused .lowReservoir)) ∧
    (s.asv.supply = .parked → ¬busy → ¬s.airReleases → r.flags.toNat % 2 = 1 → ∃ t, exec (.parkRelease r) s = .next t ∧
      State.Answers
        { s with
          asv := { s.asv with
            heldRelease := some { tag := r.tag, timer := s.starting (s.tbu.active.supply.releaseHold * 1000) } },
          lru := { s.lru with slotRelease := some r.tag } } t (answer .held .noReason))

/-! ## Loads and sensors that fall silent (chapters 2 and 5) -/

/-- R25 to R34, R120: a LOAD_SAMPLE with status OK for a present axle in RUN after restore changes that axle's record, and any other changes
nothing; the expiry of an axle's stale timer and fallback timer and of an entry's missing timer. -/
def Obligations.SensorsAreHeardOrMissed : Prop :=
  (∀ (s : State) (axle : Byte) (bag : BitVec 16) (status : Byte),
    (∀ a : Fin 4, axle.toNat = a.val + 1 → s.apu.power = .run → s.rst.restore = none → s.tbu.active.axle[a].present = true →
      status = 0 → ∃ (t : State) (x : LoadRecord), exec (.loadSample axle bag status) s = .next t ∧
        s.sampled a s.lap.axles[a] (min 1000 bag.toNat) x ∧
        State.ClosesTo { s with lap := { s.lap with axles := s.lap.axles.set a x } } t) ∧
    ((∀ a : Fin 4, axle.toNat = a.val + 1 → s.tbu.active.axle[a].present = false) ∨ s.apu.power ≠ .run ∨ s.rst.restore ≠ none ∨
        status ≠ 0 → exec (.loadSample axle bag status) s = .next s)) ∧
  ∀ s : State,
    (∀ a : Fin 4,
      let r := s.lap.axles[a]
      let on (x : LoadRecord) : State := { s with lap := { s.lap with axles := s.lap.axles.set a x } }
      (r.staleTimer ≠ none → r.status = .unknown → ∃ t, exec (.staleTimerExpiry a) s = .next t ∧
        (on { r with silent := true, staleTimer := none }).ClosesTo t) ∧
      (r.staleTimer ≠ none → r.status = .live → ∃ t, exec (.staleTimerExpiry a) s = .next t ∧
        (on { r with status := .stale, staleTimer := none, fallbackTimer := s.starting 10000 }).ClosesTo t) ∧
      (r.staleTimer ≠ none → r.status = .stale ∨ r.status = .fallback → ∃ t, exec (.staleTimerExpiry a) s = .next t ∧
        (on { r with staleTimer := none }).ClosesTo t) ∧
      (r.staleTimer = none → exec (.staleTimerExpiry a) s = .next s) ∧
      (r.fallbackTimer ≠ none → ∃ t, exec (.fallbackTimerExpiry a) s = .next t ∧
        (on { r with status := if r.status = .stale then .fallback else r.status, fallbackTimer := none }).ClosesTo t) ∧
      (r.fallbackTimer = none → exec (.fallbackTimerExpiry a) s = .next s)) ∧
    ∀ i : Fin 20, (s.twu.entries[i] = none → exec (.missingTimerExpiry i) s = .next s) ∧
    ∀ b : Bound, s.twu.entries[i] = some b →
      (b.reading.missingTimer ≠ none → ∃ t, exec (.missingTimerExpiry i) s = .next t ∧
        State.ClosesTo { s with twu := { s.twu with entries := s.twu.entries.set i (some { b with reading := { b.reading with
          level := .missing, stale := true, hot := false, missingTimer := none,
          deflMissing := b.reading.deflMissing || decide (b.reading.level = .deflated) } }) } } t) ∧
      (b.reading.missingTimer = none → exec (.missingTimerExpiry i) s = .next s)

/-! ## Wheel-end channels (chapter 3) -/

/-- R14, R57, R58, R61, R67: what the chassis bus transmitter takes when it is free in RUN after restore: a pending valve command first, else the
pending channel that the priority mode of the active CHANNEL table chooses. A present channel without wheel ends has no computed command:
its frame carries 0 while PARKED unless the channel is under a running service actuation, and else a free pressure
(notes/assumptions/4.md). That a
computed command is sent as it stands where tables that no validation has passed set it against R67 (notes/assumptions/47.md) or above 1,000
(notes/assumptions/48.md) is the model's choice. -/
def Obligations.ChassisTransmitterChooses : Prop :=
  ∀ s : State,
    let sent : State := (Ev.start s).pumpChassis.toState
    let carries (c : Fin 6) (p : Nat) : Prop := p ≤ 1000 ∧ (s.asv.supply = .parked → (∀ tag, s.wcu.service ≠ .running tag c) → p = 0)
    (s.BusHalted → sent = s) ∧
    (¬s.BusHalted → ∀ k, s.wcu.pendingValve = some k → sent =
      { s with
        wcu := { s.wcu with pendingValve := none, tx := some (valveCommand k) },
        asv := { s.asv with valveOp := s.asv.valveOp.map fun op =>
          if op.phase = .pending then { op with phase := .sent, valveTimer := s.starting 2000 } else op } }) ∧
    (¬s.BusHalted → s.wcu.pendingValve = none →
      ((∀ c : Fin 6, s.wcu.channels[c].request = false) → sent = s) ∧
      (s.tbu.active.channel.mode = .fixed → ∀ c : Fin 6, s.wcu.channels[c].request = true →
        (∀ d : Fin 6, d < c → s.wcu.channels[d].request = false) →
        (∀ p, s.wcu.channels[c].command = some p → sent = s.channelSent c p s.wcu.ranking) ∧
        (s.wcu.channels[c].command = none → ∃ p, carries c p ∧ sent = s.channelSent c p s.wcu.ranking)) ∧
      (s.tbu.active.channel.mode = .rotating → ∀ (before after : List (Fin 6)) (c : Fin 6), s.wcu.ranking = before ++ c :: after →
        c ∉ before ++ after → s.wcu.channels[c].request = true → (∀ d ∈ before, s.wcu.channels[d].request = false) →
        (∀ p, s.wcu.channels[c].command = some p → sent = s.channelSent c p (before ++ after ++ [c])) ∧
        (s.wcu.channels[c].command = none → ∃ p, carries c p ∧ sent = s.channelSent c p (before ++ after ++ [c]))))

/-- R55 to R58, R61, R68: the chassis bus transmitter becomes free when its frame has been transmitted or abandoned, and the expiry of a refresh
timer raises the channel's request unless the channel is masked, absent or output is suspended; what the event's closing work then raises by
R55 and sends is State.Raised and State.SendsChannel. With a free transmitter the ends of a transmission change nothing
(notes/assumptions/5.md). -/
def Obligations.ChassisTransmitterFrees : Prop :=
  ∀ s : State,
    (∀ c ∈ [Instr.chassisTxDone, Instr.chassisTxAbandon],
      (s.wcu.tx ≠ none → ∃ t, exec c s = .next t ∧ State.ClosesTo { s with wcu := { s.wcu with tx := none } } t) ∧
      (s.wcu.tx = none → exec c s = .next s)) ∧
    ∀ c : Fin 6,
      let ch := s.wcu.channels[c]
      let due := s.tbu.active.channel.entries[c].present = true ∧ ch.mask = none ∧ s.wcu.suspended = false
      (ch.refreshTimer ≠ none → due → ∃ t, exec (.refreshTimerExpiry c) s = .next t ∧
        (s.withChannel c { ch with refreshTimer := none, request := true }).ClosesTo t) ∧
      (ch.refreshTimer ≠ none → ¬due → ∃ t, exec (.refreshTimerExpiry c) s = .next t ∧
        (s.withChannel c { ch with refreshTimer := none }).ClosesTo t) ∧
      (ch.refreshTimer = none → exec (.refreshTimerExpiry c) s = .next s)

/-- R59, R60, R62, R64, R66, R67, R88: a MOD_REPLY of the node of a present and unmasked channel while output is not suspended (the lowest
such channel, the model's choice: notes/assumptions/24.md), and UNMASK_CHANNEL, whose DONE comes after what it brings about (notes/assumptions/9.md). -/
def Obligations.RepliesAndUnmasking : Prop :=
  (∀ (s : State) (node : BitVec 5) (pressure speed : BitVec 16) (fault : Byte),
    let of (c : Fin 6) : Prop :=
      s.tbu.active.channel.entries[c].present = true ∧ s.wcu.channels[c].mask = none ∧
        s.tbu.active.channel.entries[c].node = node.toNat
    (∀ c : Fin 6, of c → (∀ d : Fin 6, d < c → ¬of d) → s.wcu.suspended = false →
      ∃ t, exec (.modReply node pressure speed fault) s = .next t ∧
        (s.replied c { pressure := min 1000 pressure.toNat, speed := min 1500 speed.toNat, fault := fault }).ClosesTo t) ∧
    ((∀ c : Fin 6, ¬of c) ∨ s.wcu.suspended = true → exec (.modReply node pressure speed fault) s = .next s)) ∧
  ∀ (s : State) (r : Request), s.Serves r.target → s.roomForward 1 →
    let answer (x : Result) (why : Reason) : List CanFrame := [response s.lru.position r.tag x why []]
    (r.arg 0 = 0 ∨ 6 < r.arg 0 → ∃ t, exec (.unmaskChannel r) s = .next t ∧ s.Answers t (answer .refused .badArgument)) ∧
    ∀ c : Fin 6, r.arg 0 = c.val + 1 →
      let ch := s.wcu.channels[c]
      let E := s.withChannel c
        (match ch.mask with
         | some _ => { ch with mask := none, missCount := 0, awaiting := false, request := ch.request || !s.wcu.suspended }
         | none => { ch with missCount := 0 })
      (s.tbu.active.channel.entries[c].present = false → ∃ t, exec (.unmaskChannel r) s = .next t ∧
        s.Answers t (answer .refused .noSuchEntry)) ∧
      (s.tbu.active.channel.entries[c].present = true → ∃ t, exec (.unmaskChannel r) s = .next t ∧ E.ClosesTo t ∧
        (E.Calm → E.Sends t (answer .done .noReason)))

/-- R70, R74, R89: the expiry of a train's phase timer; the owner of the train is told of the terminal count, and a service actuation is
answered DONE. -/
def Obligations.PulseTrainsTick : Prop :=
  ∀ s : State,
    let a : State := { s with wcu := { s.wcu with trainA := s.wcu.trainA.ticked s.clock } }
    let b : State := { s with wcu := { s.wcu with trainB := s.wcu.trainB.ticked s.clock } }
    (s.wcu.trainA.timer ≠ none → ¬s.wcu.trainA.ends → ∃ t, exec (.phaseTimerExpiry .a) s = .next t ∧ a.ClosesTo t) ∧
    (s.wcu.trainA.timer ≠ none → s.wcu.trainA.ends → ∃ t, exec (.phaseTimerExpiry .a) s = .next t ∧ a.probeOver.ClosesTo t) ∧
    (s.wcu.trainA.timer = none → exec (.phaseTimerExpiry .a) s = .next s) ∧
    (s.wcu.trainB.timer ≠ none → ¬s.wcu.trainB.ends ∨ (∀ tag c, s.wcu.service ≠ .running tag c) →
      ∃ t, exec (.phaseTimerExpiry .b) s = .next t ∧ b.ClosesTo t) ∧
    (s.wcu.trainB.timer ≠ none → s.wcu.trainB.ends → ∀ tag c, s.wcu.service = .running tag c →
      let E : State := { b with wcu := { b.wcu with service := .none } }
      ∃ t, exec (.phaseTimerExpiry .b) s = .next t ∧ E.ClosesTo t ∧
        (s.apu.power = .run → s.roomForward 1 → E.Sends t [response s.lru.position tag .done .noReason []])) ∧
    (s.wcu.trainB.timer = none → exec (.phaseTimerExpiry .b) s = .next s)

/-- R72, R73: SERVICE_ACTUATE. Its ACCEPTED comes before what the start brings about (notes/assumptions/9.md). -/
def Obligations.ServiceActuateIsDecided : Prop :=
  ∀ (s : State) (r : Request), s.Serves r.target → s.roomForward 1 →
    let answer (x : Result) (why : Reason) : List CanFrame := [response s.lru.position r.tag x why []]
    let refused (why : Reason) : Prop := ∃ t, exec (.serviceActuate r) s = .next t ∧ s.Answers t (answer .refused why)
    ((∀ a, ¬serviceArgsOf r a) → refused .badArgument) ∧
    ∀ a, serviceArgsOf r a →
      (s.wcu.service ≠ .none → refused .busy) ∧
      (s.wcu.service = .none → s.serviceMeets a.channel 6 →
        ∃ t, exec (.serviceActuate r) s = .next t ∧ (s.serviceStarted r.tag a).ClosesTo t ∧
          (s.serviceStarted r.tag a).Sends t (answer .accepted .noReason)) ∧
      (s.wcu.service = .none → ¬s.serviceMeets a.channel 6 → r.flags.toNat % 2 = 1 → ∃ t, exec (.serviceActuate r) s = .next t ∧
        State.Answers
          { s with
            wcu := { s.wcu with service := .held r.tag a (s.starting 60000) }, lru := { s.lru with slotService := some r.tag } } t
          (answer .held .noReason)) ∧
      (s.wcu.service = .none → r.flags.toNat % 2 = 0 → ∀ n why, (n, why) ∈
          [(1, Reason.moving), (2, .braking), (3, .notParked), (4, .busy), (5, .noSuchEntry)] →
        s.serviceMeets a.channel n → ¬s.serviceMeets a.channel (n + 1) → refused why)

/-- R45, R46, R73, R74, R150, R152: among the changes of an event, a held service actuation starts as soon as its five conditions are met, and a
running one ends with FAILED when its channel is masked, else with CANCELLED when one of its causes comes about (notes/assumptions/19.md). -/
def Obligations.ServiceFollowsItsConditions : Prop :=
  ∀ e : Ev,
    (e.wcu.service = .none → e.followService = e) ∧
    (∀ tag a timer, e.wcu.service = .held tag a timer →
      (e.serviceMeets a.channel 6 → e.followService.toState =
        State.serviceStarted { e.toState with lru := { e.lru with slotService := none } } tag a ∧ e.followService.answers = e.answers) ∧
      (¬e.serviceMeets a.channel 6 → e.followService = e)) ∧
    ∀ tag c, e.wcu.service = .running tag c →
      let stopped : State := { e.toState with wcu := { e.wcu with trainB := e.wcu.trainB.stopped, service := .none } }
      let goes := e.wcu.refSpeed ≤ 20 ∧ e.asv.dEff = some 0 ∧ e.asv.supply ≠ .emergency ∧
        (e.rou.state = .quiet ∨ ∃ x, e.rou.state = .off x)
      (e.wcu.channels[c].mask ≠ none → e.followService.toState = stopped ∧
        e.followService.answers = e.answers ++ [{ tag := tag, result := .failed }]) ∧
      (e.wcu.channels[c].mask = none → ¬goes → e.followService.toState = stopped ∧
        e.followService.answers = e.answers ++ [{ tag := tag, result := .cancelled }]) ∧
      (e.wcu.channels[c].mask = none → goes → e.followService = e)

/-! ## Rollover protection (chapter 4) -/

/-- R78, R79, R83 to R87, R91, R92, R96, R99, R100: a LATERAL_SAMPLE taken in RUN after restore, unless the unit is OFF with cause DISABLED,
clamped to -1,500 to 1,500; every good one falls under a line of the tests, and status FAULT is a sensor failure. -/
def Obligations.LateralSamplesAreTested : Prop :=
  ∀ (s : State) (value : BitVec 16) (status : Byte),
    let a : Int := if value.toInt < -1500 then -1500 else if 1500 < value.toInt then 1500 else value.toInt
    let taken := s.apu.power = .run ∧ s.rst.restore = none ∧ s.rou.state ≠ .off .disabled
    (taken → status = 0 →
      (∃ E, s.LateralEffect a E) ∧
        ∀ E, s.LateralEffect a E → ∃ t, exec (.lateralSample value status) s = .next t ∧ E.ClosesTo t) ∧
    (taken → status ≠ 0 → ∃ t, exec (.lateralSample value status) s = .next t ∧ s.sensorFailed.ClosesTo t) ∧
    (¬taken → exec (.lateralSample value status) s = .next s)

/-- R79, R94, R95, R97, R99, R103: the expiry of the lateral timer is a sensor failure, that of the hold timer in INTERVENE makes the state
HOLDOFF, and that of the ramp timer in HOLDOFF lowers every intervention pressure by the ramp step and ends HOLDOFF when all are 0. -/
def Obligations.RolloverTimersExpire : Prop :=
  ∀ s : State,
    (s.rou.lateralTimer ≠ none → ∃ t, exec .lateralTimerExpiry s = .next t ∧
      (State.sensorFailed { s with rou := { s.rou with lateralTimer := none } }).ClosesTo t) ∧
    (s.rou.lateralTimer = none → exec .lateralTimerExpiry s = .next s) ∧
    (s.rou.holdTimer ≠ none → s.rou.state = .intervene → ∃ t, exec .holdTimerExpiry s = .next t ∧ s.heldOff.ClosesTo t) ∧
    (s.rou.holdTimer = none ∨ s.rou.state ≠ .intervene → exec .holdTimerExpiry s = .next s) ∧
    (s.rou.rampTimer ≠ none → s.rou.state = .holdoff →
      ((∃ w : Fin 8, s.tbu.active.roll.rampStep < s.rou.pressures[w]) → ∃ t, exec .rampTimerExpiry s = .next t ∧
        State.ClosesTo
          { s.stepped with rou := { s.stepped.rou with rampTimer := s.starting s.tbu.active.roll.rampInterval } } t) ∧
      ((∀ w : Fin 8, s.rou.pressures[w] ≤ s.tbu.active.roll.rampStep) → ∃ t, exec .rampTimerExpiry s = .next t ∧
        s.stepped.holdoffOver.ClosesTo t)) ∧
    (s.rou.rampTimer = none ∨ s.rou.state ≠ .holdoff → exec .rampTimerExpiry s = .next s)

/-! ## Tyres and the registry (chapters 5 and 6) -/

/-- R108 to R118, R123, R133, R134, 11.4: a TYRE_TELEGRAM after restore in RUN or STANDBY, decoded and clamped; every one falls under a line,
and what the learn rules answer is sent in RUN. That a duplicate is answered and added to the window's set however many it holds
(notes/assumptions/40.md), and that these answers go before what the closing work completes (notes/assumptions/9.md), are the model's choice. -/
def Obligations.TelegramsAreTaken : Prop :=
  ∀ (s : State) (ident : BitVec 32) (pressure : BitVec 16) (temperature flags : Byte),
    let x : Telegram :=
      { ident := ident, pressure := min 1400 pressure.toNat, temperature := min 190 (temperature.toNat : Int) - 40,
        count := BitVec.ofNat 4 (flags.toNat / 16), learnTrigger := flags.getLsbD 2, batteryLow := flags.getLsbD 1,
        rapidLoss := flags.getLsbD 0 }
    (s.RegistryUnique → s.rst.restore = none → s.apu.power ≠ .sleep →
      (∃ E fs, s.TelegramEffect x E fs) ∧
        ∀ E fs, s.TelegramEffect x E fs → ∃ t, exec (.tyreTelegram ident pressure temperature flags) s = .next t ∧ E.ClosesTo t ∧
          (s.apu.power = .run → s.roomForward fs.length → E.Sends t fs)) ∧
    (s.rst.restore ≠ none ∨ s.apu.power = .sleep → exec (.tyreTelegram ident pressure temperature flags) s = .next s) ∧
    (∀ (a : Fin 4) (side : Side) (place : Place), s.coldReference (.tyre a side place) = s.tbu.active.tyre.axles[a].pRef) ∧
    ∀ n : Fin 4,
      (∀ a : Fin 4, s.tbu.active.axle[a].present = true → s.tbu.active.tyre.axles[a].pRef ≤ s.coldReference (.spare n)) ∧
        ((∃ a : Fin 4, s.tbu.active.axle[a].present = true) →
          ∃ a : Fin 4, s.tbu.active.axle[a].present = true ∧ s.coldReference (.spare n) = s.tbu.active.tyre.axles[a].pRef)

/-- R132: LEARN; an open exchange half ends first. -/
def Obligations.LearnIsDecided : Prop :=
  ∀ (s : State) (r : Request), s.Serves r.target → s.roomForward 2 →
    let ended : List CanFrame := s.twu.half.toList.map fun h => response s.lru.position h.tag .cancelled .noReason []
    let answer (x : Result) (why : Reason) : CanFrame := response s.lru.position r.tag x why []
    let time := r.arg 1 * 256 + r.arg 2
    let timely := time = 0 ∨ (10 ≤ time ∧ time ≤ 600)
    ((∀ b, b.code = r.arg 0 → bindingValid s.tbu.active.axle b = false) ∨ ¬timely → ∃ t, exec (.learn r) s = .next t ∧
      s.halfOver.Answers t (ended ++ [answer .refused .badArgument])) ∧
    ∀ b, b.code = r.arg 0 → bindingValid s.tbu.active.axle b = true → timely →
      (s.twu.learn ≠ none → ∃ t, exec (.learn r) s = .next t ∧ s.halfOver.Answers t (ended ++ [answer .refused .busy])) ∧
      (s.twu.learn = none → ∃ t, exec (.learn r) s = .next t ∧
        State.Answers
          { s with twu := { s.twu with
              half := none,
              learn := some
                { binding := b, tag := r.tag, timer := s.starting ((if time = 0 then 120 else time) * 1000), answered := [] } } } t
          (ended ++ [answer .accepted .noReason]))

/-- R131, R136, R137: ASSIGN and REMOVE; an open exchange half ends first. The DONE of a binding change comes after what the change brings
about (notes/assumptions/9.md). -/
def Obligations.AssignAndRemoveAreDecided : Prop :=
  ∀ (s : State) (r : Request), s.Serves r.target → s.RegistryUnique → s.roomForward 2 →
    let ended : List CanFrame := s.twu.half.toList.map fun h => response s.lru.position h.tag .cancelled .noReason []
    let answer (x : Result) (why : Reason) : CanFrame := response s.lru.position r.tag x why []
    let only (c : Instr) (x : Result) (why : Reason) : Prop :=
      ∃ t, exec c s = .next t ∧ s.halfOver.Answers t (ended ++ [answer x why])
    let changes (c : Instr) (E : State) : Prop :=
      ∃ t, exec c s = .next t ∧ E.ClosesTo t ∧ E.Sends t ended ∧ (E.Calm → E.Sends t (ended ++ [answer .done .noReason]))
    let ident : BitVec 32 := r.args.setWidth 32
    ((∀ b, b.code = r.arg 0 → bindingValid s.tbu.active.axle b = false) ∨ ident = 0 ∨ ident = 0xFFFFFFFF →
      only (.assign r) .refused .badArgument) ∧
    (∀ b, b.code = r.arg 0 → bindingValid s.tbu.active.axle b = true → ident ≠ 0 → ident ≠ 0xFFFFFFFF →
      (∀ (i : Fin 20) (x : Bound), s.twu.entries[i] = some x → x.ident = ident →
        (x.binding = b → only (.assign r) .done .noReason) ∧ (x.binding ≠ b → only (.assign r) .refused .duplicate)) ∧
      (s.unheld ident → ∀ i, s.goesTo b i →
        (s.hasRoom [1] → changes (.assign r) (s.halfOver.bindingChanged i (some (s.freshBound ident b)))) ∧
        (¬s.hasRoom [1] → only (.assign r) .refused .storeFull))) ∧
    ((∀ b : Binding, b.code ≠ r.arg 0) → only (.remove r) .refused .badArgument) ∧
    ∀ b : Binding, b.code = r.arg 0 →
      (s.unbound b → only (.remove r) .refused .noSuchEntry) ∧
      ∀ (i : Fin 20) (x : Bound), s.twu.entries[i] = some x → x.binding = b →
        (s.hasRoom [1] → changes (.remove r) (s.halfOver.bindingChanged i none)) ∧
        (¬s.hasRoom [1] → only (.remove r) .refused .storeFull)

/-- R138, R139: EXCHANGE opens a half, cancels it, or swaps its binding with another. The half is answered before the second request, whose
DONE comes after what the swap brings about (notes/assumptions/9.md). -/
def Obligations.ExchangeIsDecided : Prop :=
  ∀ (s : State) (r : Request), s.Serves r.target → s.RegistryUnique → s.roomForward 2 →
    let answer (tag : Tag) (x : Result) (why : Reason) : CanFrame := response s.lru.position tag x why []
    let only (E : State) (fs : List CanFrame) : Prop := ∃ t, exec (.exchange r) s = .next t ∧ E.Answers t fs
    ((∀ b, b.code = r.arg 0 → bindingValid s.tbu.active.axle b = false) → only s [answer r.tag .refused .badArgument]) ∧
    ∀ b, b.code = r.arg 0 → bindingValid s.tbu.active.axle b = true →
      (s.twu.half = none → s.twu.learn ≠ none → only s [answer r.tag .refused .busy]) ∧
      (s.twu.half = none → s.twu.learn = none →
        only { s with twu := { s.twu with half := some { binding := b, tag := r.tag, timer := s.starting 60000 } } }
          [answer r.tag .held .noReason]) ∧
      ∀ h, s.twu.half = some h →
        (b = h.binding → only s.halfOver [answer h.tag .cancelled .noReason, answer r.tag .done .noReason]) ∧
        (b ≠ h.binding → ∀ A B, s.Holds h.binding A → s.Holds b B →
          let changed := A.toList ++ B.toList
          (changed ≠ [] → ¬s.hasRoom (changed.map fun _ => 1) → only s [answer r.tag .refused .storeFull]) ∧
          (changed = [] ∨ s.hasRoom (changed.map fun _ => 1) →
            let E := ((s.moves A b).moves B h.binding).halfOver
            ∃ t, exec (.exchange r) s = .next t ∧ E.ClosesTo t ∧ E.Sends t [answer h.tag .done .noReason] ∧
              (E.Calm → E.Sends t [answer h.tag .done .noReason, answer r.tag .done .noReason])))

/-! ## Calibration tables (chapter 7) -/

/-- R153, R154: the shadow passes validation exactly when V1 to V7 hold, and otherwise the first check in the order of their numbers that
fails is reported with its table; the entry is the first axle that fails V2, and 0 for V7. -/
def Obligations.ValidationChecksTheShadow : Prop :=
  ∀ t : Tables, (validate t = none ↔ t.Valid) ∧
    ∀ f, validate t = some f →
      (f.check, f.table) ∈
        [(1, TableId.load), (2, .axle), (3, .channel), (4, .roll), (5, .tyre), (6, .supply), (7, .channel)] ∧
      ¬t.Passes f.check ∧ (∀ n, n < f.check → t.Passes n) ∧ (f.check = 7 → f.entry = 0) ∧
      (f.check = 2 →
        let fails (a : Fin 4) : Prop := t.axle[a].present = true ∧ ¬(t.axle[a].rMin ≤ 1000 ∧ t.axle[a].rMin ≤ t.axle[a].fallback)
        ∃ a : Fin 4, f.entry = a.val + 1 ∧ fails a ∧ ∀ b : Fin 4, fails b → a ≤ b)

/-- R146 to R148, 11.5: TABLE_WRITE replaces a whole shadow entry and no other, READ_TABLE answers an entry of either copy, and DISCARD makes
the shadow equal to the active tables and ends a held insert. That READ_TABLE refuses the copy selector where the table or entry is bad too is
the model's choice (notes/assumptions/44.md). -/
def Obligations.TablesAreWrittenReadAndDiscarded : Prop :=
  (∀ (t : Tables) (id : TableId) (e : Nat) (fs : List Field) (vs : List Nat), entryLayout id e = some fs → vs.length = fs.length →
    inRanges fs vs = true → entryValues (withEntry t id e vs) id e = vs ∧
      ∀ id' e', (entryLayout id' e').isSome = true → (id', e') ≠ (id, e) → entryValues (withEntry t id e vs) id' e' = entryValues t id' e') ∧
  (∀ (s : State) (w : TableWriteFrame), s.Serves w.target → s.roomForward 1 →
    let answer (x : Result) (why : Reason) : List CanFrame := [response s.lru.position w.tag x why []]
    ((∀ id : TableId, id.code = w.table.toNat → entryLayout id w.entry.toNat = none) → ∃ t, exec (.tableWrite w) s = .next t ∧
      s.Answers t (answer .refused .noSuchEntry)) ∧
    ∀ (id : TableId) (fs : List Field), id.code = w.table.toNat → entryLayout id w.entry.toNat = some fs →
      let vs := unpackArea fs w.area.toNat
      (inRanges fs vs = false → ∃ t, exec (.tableWrite w) s = .next t ∧ s.Answers t (answer .refused .badArgument)) ∧
      (inRanges fs vs = true → ∃ t, exec (.tableWrite w) s = .next t ∧
        State.Answers
          { s with tbu := { s.tbu with shadow := withEntry s.tbu.shadow id w.entry.toNat vs, differs := true } } t
          (answer .done .noReason))) ∧
  ∀ (s : State) (r : Request), s.Serves r.target → s.roomForward 2 →
    let answer (x : Result) (why : Reason) : CanFrame := response s.lru.position r.tag x why []
    (2 ≤ r.arg 0 → ∃ t, exec (.readTable r) s = .next t ∧ s.Answers t [answer .refused .badArgument]) ∧
    (r.arg 0 ≤ 1 → (∀ id : TableId, id.code = r.arg 1 → entryLayout id (r.arg 2) = none) →
      ∃ t, exec (.readTable r) s = .next t ∧ s.Answers t [answer .refused .noSuchEntry]) ∧
    (∀ (id : TableId) (fs : List Field), r.arg 0 ≤ 1 → id.code = r.arg 1 → entryLayout id (r.arg 2) = some fs →
      let copy := if r.arg 0 = 0 then s.tbu.active else s.tbu.shadow
      ∃ t, exec (.readTable r) s = .next t ∧
        s.Answers t (answerFrames s.lru.position r.tag .done
          ([BitVec.ofNat 8 ((if s.tbu.differs then 128 else 0) + if s.tbu.heldInsert.isSome then 64 else 0),
            BitVec.ofNat 8 (r.arg 1 * 32 + r.arg 2)] ++ areaBytes (packArea fs (entryValues copy id (r.arg 2)))))) ∧
    ∃ t, exec (.discard r) s = .next t ∧
      State.Answers
        { s with
          tbu := { s.tbu with shadow := s.tbu.active, differs := false, heldInsert := none },
          lru := { s.lru with slotInsert := if s.tbu.heldInsert.isSome then none else s.lru.slotInsert } } t
        (s.tbu.heldInsert.toList.map (fun tag => response s.lru.position tag .cancelled .noReason []) ++ [answer .done .noReason])

/-- R149, R152, R154 to R156, R167: INSERT is refused, held or performed at once. The CANCELLED of what the insertion ends are queued first, and
where no service actuation is held or runs the DONE comes next. The length of a missing timer that the insertion starts is the model's choice
(notes/assumptions/39.md). -/
def Obligations.InsertIsDecided : Prop :=
  ∀ (s : State) (r : Request), s.Serves r.target → s.roomForward 3 →
    let answer (x : Result) (why : Reason) (data : List Byte) : List CanFrame := [response s.lru.position r.tag x why data]
    let now := s.tbu.heldInsert = none ∧ s.lap.brakeActive = false
    let failed := s.withFlag .tableInsertFailed
    (s.tbu.heldInsert ≠ none → ∃ t, exec (.insert r) s = .next t ∧ s.Answers t (answer .refused .busy [])) ∧
    (s.tbu.heldInsert = none → s.lap.brakeActive = true → r.flags.toNat % 2 = 0 → ∃ t, exec (.insert r) s = .next t ∧
      s.Answers t (answer .refused .braking [])) ∧
    (s.tbu.heldInsert = none → s.lap.brakeActive = true → r.flags.toNat % 2 = 1 → ∃ t, exec (.insert r) s = .next t ∧
      State.Answers
        { s with tbu := { s.tbu with heldInsert := some r.tag }, lru := { s.lru with slotInsert := some r.tag } } t
        (answer .held .noReason [])) ∧
    (now → ∀ f, validate s.tbu.shadow = some f → ∃ t, exec (.insert r) s = .next t ∧ failed.ClosesTo t ∧
      failed.Sends t (answer .failed (.check f.check) [BitVec.ofNat 8 f.table.code, BitVec.ofNat 8 f.entry])) ∧
    (now → validate s.tbu.shadow = none → ¬s.roomToInsert → ∃ t, exec (.insert r) s = .next t ∧ failed.ClosesTo t ∧
      failed.Sends t (answer .failed .storeFull [0, 0])) ∧
    (now → validate s.tbu.shadow = none → s.roomToInsert → ∃ t, exec (.insert r) s = .next t ∧
      (s.inserted.holdAs s t).ClosesTo t ∧
      s.inserted.Sends t (s.endedByInsertion.map fun tag => response s.lru.position tag .cancelled .noReason []) ∧
      (s.inserted.Calm → s.inserted.Sends t
        (s.endedByInsertion.map (fun tag => response s.lru.position tag .cancelled .noReason []) ++ answer .done .noReason [])))

/-- R45 to R48, R75, R105, R125, R142, R149, R150, R152, R154, R155: the brake activity flag is formed once, after all the changes of an event; its
clearing performs a held insert, and nothing else does. The insertion is that of INSERT on the state `u` that the event has left, with the
slot emptied: loads, channels, rollover unit, tyres, registry and the TABLE records; the conditions are handed on as they stand before it, and
OVERLOAD and LOAD_SENSOR_STALE again within it. That handing on before it (notes/assumptions/8.md), the length of a missing timer that it starts
(notes/assumptions/39.md) and that it starts no stale timer at the entry into STANDBY (notes/assumptions/22.md) are the model's choice. -/
def Obligations.BrakeReleasePerformsTheHeldInsert : Prop :=
  ∀ e : Ev,
    let release := e.lap.brakeActive = true ∧ e.reform.brakeActivity = false
    (¬release → e.settle.tbu = e.tbu ∧ e.settle.lap.brakeActive = e.reform.brakeActivity) ∧
    (e.tbu.heldInsert = none → e.settle.tbu = e.tbu) ∧
    ∀ tag, release → e.tbu.heldInsert = some tag →
      let now := e.reform.setActivity
      let u : State :=
        { now.toState with tbu := { now.tbu with heldInsert := none }, lru := { now.lru with slotInsert := none } }
      let failed : Prop := u.Keeps e.settle.toState ∧ u.Stays e.settle.toState ∧ e.settle.wcu = u.wcu ∧ e.settle.rst = u.rst ∧
        e.settle.rou = u.rou ∧ e.settle.apu.alerts[AlertKind.tableInsertFailed.index].flag = true
      e.settle.tbu.heldInsert = none ∧ e.settle.lru.slotInsert = none ∧ now.tbu = e.tbu ∧ now.rst = e.rst ∧
      (∀ (k : AlertKind) (before after : Bool), (k, before) ∈ now.conditions → (k, after) ∈ e.settle.conditions →
        let handed := (now.apu.alerts[k.index]).handed before
        e.settle.apu.alerts[k.index] = if k = .overload ∨ k = .loadSensorStale then handed.handed after else handed) ∧
      (∀ k : Fin 23, isEventAlert k = true → k ≠ AlertKind.tableInsertFailed.index → e.settle.apu.alerts[k] = e.apu.alerts[k]) ∧
      (validate e.tbu.shadow = none → e.roomToInsert →
        e.settle.tbu.active = e.tbu.shadow ∧ e.settle.tbu.shadow = e.tbu.shadow ∧ e.settle.tbu.differs = false ∧
          u.inserted.Keeps e.settle.toState ∧ u.inserted.Stays e.settle.toState ∧ u.inserted.Raised e.settle.wcu.channels ∧
          (u.rou.state ≠ .intervene → e.settle.rou.holdTimer = u.inserted.rou.holdTimer) ∧
          e.settle.rst = u.inserted.rst ∧
          e.reform.answers ++ u.endedByInsertion.map (fun x => { tag := x, result := .cancelled }) <+: e.settle.answers ∧
          e.settle.answers.getLast? = some { tag := tag, result := .done }) ∧
      (validate e.tbu.shadow = none → ¬e.roomToInsert →
        failed ∧ e.settle.answers = e.reform.answers ++ [{ tag := tag, result := .failed, reason := .storeFull, data := [0, 0] }]) ∧
      ∀ f, validate e.tbu.shadow = some f →
        failed ∧ e.settle.answers = e.reform.answers ++
          [{ tag := tag, result := .failed, reason := .check f.check,
             data := [BitVec.ofNat 8 f.table.code, BitVec.ofNat 8 f.entry] }]

/-! ## Links and requests (chapter 8) -/

/-- R164, R165, R166, R172: a REQUEST or TABLE_WRITE frame is taken, passed rearward, both or discarded by its target and the position; a
request that is taken is refused during restore, and after it when its code is none of the table; a broadcast acts as the same frame addressed
to the part once its copy has joined the rear queue, or has been dropped, which of the two comes first being the model's choice
(notes/assumptions/46.md). The ALERT frame of that drop goes behind its answers and before the
other ALERT frames: R166 gives the place behind the answers, and the place before the others is the model's choice (notes/assumptions/8.md). The
rows are those of the frame's own command and of REQUEST_NOT_READY and REQUEST_NOT_ADDRESSED, which act by the bits
(notes/assumptions/26.md). -/
def Obligations.RequestsAreAddressed : Prop :=
  (∀ (s : State) (code : Byte) (r : Request), s.Serves r.target → s.roomForward 1 → code = 0 ∨ 23 < code.toNat →
    ∃ t, exec (.requestUnknown code r) s = .next t ∧ s.Answers t [response s.lru.position r.tag .refused .unknownRequest []]) ∧
  ∀ (s : State) (f : RearwardFrame), s.lru.position ≤ 4 → ∀ c ∈ [rearwardCommand f, Instr.requestNotReady f, Instr.requestNotAddressed f],
    let p := s.lru.position
    let n := f.target
    let refused (why : Reason) : Prop :=
      ∃ t, exec c s = .next t ∧ s.Answers t [response p f.tag .refused why []]
    let dropped : State := { s with lru := { s.lru with rearOverflows := min 65535 (s.lru.rearOverflows + 1) } }
    (s.apu.power ≠ .run → exec c s = .next s) ∧
    (s.apu.power = .run →
      (n = 0 ∨ (5 ≤ n ∧ n ≠ 15) ∨ (n ≤ 4 ∧ n < p) ∨ (n ≤ 4 ∧ p = 0) →
        exec c s = .next { s with lru := { s.lru with towDiscards := min 65535 (s.lru.towDiscards + 1) } }) ∧
      (1 ≤ p → p < n → n ≤ 4 → s.lru.rearQueue.length < 8 → exec c s = .next (s.rearQueued f.frame)) ∧
      (1 ≤ p → p < n → n ≤ 4 → 8 ≤ s.lru.rearQueue.length →
        (¬s.overflowAlerts → exec c s = .next dropped.overflowed) ∧
        (s.overflowAlerts → s.roomForward 1 → ∃ t, exec c s = .next t ∧
          dropped.overflowed.Answers t [alertFrame p AlertKind.relayOverflow.index true])) ∧
      ((1 ≤ n ∧ n ≤ 4 ∧ n = p) ∨ (n = 15 ∧ p = 0) → s.roomForward 1 →
        s.rst.restore ≠ none → refused .notReady) ∧
      (n = 15 → 1 ≤ p →
        (s.lru.rearQueue.length < 8 → exec c s = exec (rearwardCommand (aimRearward f p)) (s.rearQueued f.frame)) ∧
        (8 ≤ s.lru.rearQueue.length → ¬s.overflowAlerts → exec c s = exec (rearwardCommand (aimRearward f p)) dropped.overflowed) ∧
        (8 ≤ s.lru.rearQueue.length → s.overflowAlerts →
          ∃ t u, exec c s = .next t ∧ exec (rearwardCommand (aimRearward f p)) dropped.overflowed = .next u ∧
            { t with
              apu := u.apu
              lru := { t.lru with
                forwardQueue := u.lru.forwardQueue, towTx := u.lru.towTx, forwardOverflows := u.lru.forwardOverflows } } = u ∧
            (s.lru.forwardOverflows < 65535 → u.lru.forwardOverflows = s.lru.forwardOverflows → s.roomForward 1 → u.roomForward 1 →
              u.SameButTow t ∧ ∃ own alerts, u.towFrames = s.towFrames ++ own ++ alerts ∧
                t.towFrames = s.towFrames ++ own ++ alertFrame p AlertKind.relayOverflow.index true :: alerts ∧
                (∀ g ∈ own, g.id.toNat / 128 ≠ 11) ∧ ∀ g ∈ alerts, g.id.toNat / 128 = 11))))

/-- R160, R166, R171, R172, R186: frames that R160 discards are counted and change nothing else; a rear vehicle's RESPONSE, CONTINUATION,
STATUS or ALERT is queued forward unchanged, or dropped and counted with RELAY_OVERFLOW, whose own ALERT frame then finds no place either; a
transmitter that has finished with its frame, transmitted or abandoned, takes what waits; with a free transmitter the ends of a transmission
change nothing (notes/assumptions/5.md). -/
def Obligations.FramesAreDiscardedQueuedAndTaken : Prop :=
  (∀ (s : State) (f : RxFrame),
    let kind := f.id.toNat / 128
    let malformed := kind ∉ [1, 2, 3, 8, 9, 10, 11] ∨ f.id.toNat % 8 ≠ 0 ∨ f.len ≠ 8
    let dropped (n : Nat) : State := { s with lru := { s.lru with forwardOverflows := min 65535 (s.lru.forwardOverflows + n) } }
    (s.apu.power = .run → malformed ∨ 8 ≤ kind → exec (.towFrameDiscarded f) s =
      .next { s with lru := { s.lru with towDiscards := min 65535 (s.lru.towDiscards + 1) } }) ∧
    (s.apu.power = .run → malformed ∨ kind ≤ 3 → exec (.rearFrame f) s =
      .next { s with lru := { s.lru with rearDiscards := min 65535 (s.lru.rearDiscards + 1) } }) ∧
    (s.apu.power = .run → ¬malformed → 8 ≤ kind →
      (s.roomForward 1 → ∃ t, exec (.rearFrame f) s = .next t ∧ s.Answers t [{ id := f.id, data := f.data }]) ∧
      (¬s.roomForward 1 →
        (¬s.overflowAlerts → exec (.rearFrame f) s = .next { (s.overflowed) with lru := (dropped 1).lru }) ∧
        (s.overflowAlerts → exec (.rearFrame f) s = .next { (s.overflowed) with lru := (dropped 2).lru }))) ∧
    (s.apu.power ≠ .run → exec (.towFrameDiscarded f) s = .next s ∧ exec (.rearFrame f) s = .next s)) ∧
  ∀ s : State,
    (∀ c ∈ [Instr.towTxDone, Instr.towTxAbandon],
      (s.lru.towTx = none → exec c s = .next s) ∧
      ∀ f, s.lru.towTx = some f → f.resetDone = false →
        (s.apu.power ≠ .run ∨ s.lru.forwardQueue = [] → exec c s = .next { s with lru := { s.lru with towTx := none } }) ∧
        ∀ g rest, s.apu.power = .run → s.lru.forwardQueue = g :: rest →
          exec c s = .next { s with lru := { s.lru with towTx := some g, forwardQueue := rest } }) ∧
    ∀ c ∈ [Instr.rearTxDone, Instr.rearTxAbandon],
      let free : State := { s with lru := { s.lru with rearTx := none } }
      (s.lru.rearTx = none → exec c s = .next s) ∧
      (s.lru.rearTx ≠ none → s.apu.power ≠ .run → exec c s = .next free) ∧
      (s.lru.rearTx ≠ none → s.apu.power = .run → exec c s = .next free.rearTaken)

/-- R166, R168: an answer is one RESPONSE with the first five data bytes and CONTINUATION frames of six bytes each, numbered from 1; frames
queued together join the forward queue next to one another in their order, or are all dropped and counted with RELAY_OVERFLOW. -/
def Obligations.AnswersAreSegmented : Prop :=
  (∀ (position : Nat) (tag : Tag) (result : Result) (data : List Byte),
    (answerFrames position tag result data).length = 1 + (data.length - 5 + 5) / 6 ∧
    (answerFrames position tag result data)[0]? = some (response position tag result .noReason data) ∧
    ∀ k, k < (data.length - 5 + 5) / 6 → (answerFrames position tag result data)[k + 1]? =
      some (continuation position tag (k + 1) ((data.drop (5 + 6 * k)).take 6))) ∧
  ∀ (e : Ev) (fs : List ForwardFrame),
    (e.lru.forwardQueue.length + fs.length ≤ 24 →
      (e.queueForward fs).towFrames = e.towFrames ++ fs.map (·.frame) ∧ e.toState.SameButTow (e.queueForward fs).toState) ∧
    (24 < e.lru.forwardQueue.length + fs.length →
      (e.queueForward fs).toState =
        { (e.toState.overflowed) with
          lru := { e.lru with forwardOverflows := min 65535 (e.lru.forwardOverflows + fs.length) } })

/-- R20, R73, R74, R135, R140, R150, R170: CANCEL ends what it names, which is answered CANCELLED, and is then answered DONE, after what the
ending brings about (notes/assumptions/9.md). -/
def Obligations.CancelIsDecided : Prop :=
  ∀ (s : State) (r : Request), s.Serves r.target → s.SlotsMatch → s.roomForward 2 →
    let answer (tag : Tag) (x : Result) (why : Reason) : CanFrame := response s.lru.position tag x why []
    (r.arg 0 ∉ [3, 6, 7, 10, 15] → ∃ t, exec (.cancel r) s = .next t ∧ s.Answers t [answer r.tag .refused .badArgument]) ∧
    ∀ tag E, s.Cancels (r.arg 0) tag E →
      (tag = none → ∃ t, exec (.cancel r) s = .next t ∧ s.Answers t [answer r.tag .refused .noSuchEntry]) ∧
      ∀ x, tag = some x → ∃ t, exec (.cancel r) s = .next t ∧ E.ClosesTo t ∧ E.Sends t [answer x .cancelled .noReason] ∧
        (E.Calm → E.Sends t [answer x .cancelled .noReason, answer r.tag .done .noReason])

/-! ## What the part tells (11.3) -/

/-- R65, R126, R141, R168, R179, R187, R198, 11.3: the answers of READ_CHANNEL, READ_TYRE, READ_REGISTRY, IDENTIFY and NEXT_ALERT, which change
nothing. A byte to which the spec gives no value is free, the same in every state that differs in the tow link's queue alone, so that a second
read gives the same answer (notes/assumptions/3.md); the design revision is the model's constant (notes/assumptions/2.md), the seconds left
are whole (notes/assumptions/17.md), the temperature of READ_TYRE is offset by 40 (notes/assumptions/34.md), and an adj below 0 is sent as 0
(notes/assumptions/43.md). -/
def Obligations.ReadsAnswerTheState : Prop :=
  ∀ (s : State) (r : Request), s.Serves r.target → s.roomForward 5 →
    let p := s.lru.position
    let two (n : Nat) : List Byte := [BitVec.ofNat 8 (n / 256), BitVec.ofNat 8 n]
    let refused (c : Instr) (why : Reason) : Prop := ∃ t, exec c s = .next t ∧ s.Answers t [response p r.tag .refused why []]
    let read (c : Instr) (data : List Byte) : Prop := ∃ t, exec c s = .next t ∧ s.Answers t (answerFrames p r.tag .done data)
    let left (x : Timer) : List Byte := two ((x.map fun y => (y.length - (s.clock - y.since)) / 1000).getD 65535)
    let again (c : Instr) (fs : List CanFrame) : Prop :=
      ∀ u : State, s.SameButTow u → u.roomForward 5 → ∃ t, exec c u = .next t ∧ u.Answers t fs
    let channel (first : List Byte) (ch : Channel) (fault : Byte) (train : List Byte) : List CanFrame :=
      answerFrames p r.tag .done
        (first ++ two (ch.command.getD 65535) ++ two ch.lastSent ++
          [match ch.mask with | none => 0 | some .lost => 1 | some .fault => 2, BitVec.ofNat 8 ch.missCount] ++
          two ((ch.lastReply.map (·.pressure)).getD 65535) ++ two ((ch.lastReply.map (·.speed)).getD 65535) ++
          [(ch.lastReply.map (·.fault)).getD fault] ++ train)
    let shows (x : PulseTrain) (c : Fin 6) : Prop := x.phase ≠ .off ∧ x.targets[c] = true
    (r.arg 0 = 0 ∨ 6 < r.arg 0 → refused (.readChannel r) .badArgument) ∧
    (∀ c : Fin 6, r.arg 0 = c.val + 1 → ∀ train : List Byte,
      (shows s.wcu.trainA c → train = [BitVec.ofNat 8 s.wcu.trainA.phase.code, BitVec.ofNat 8 s.wcu.trainA.count]) →
      (¬shows s.wcu.trainA c → shows s.wcu.trainB c →
        train = [BitVec.ofNat 8 (128 + s.wcu.trainB.phase.code), BitVec.ofNat 8 s.wcu.trainB.count]) →
      (¬shows s.wcu.trainA c → ¬shows s.wcu.trainB c → train = [0, 0]) →
      let x := s.tbu.active.channel.entries[c]
      let sides : Nat := (if x.side = .right then 64 else 0) + (if x.axles[0] then 8 else 0) + (if x.axles[1] then 4 else 0) +
        (if x.axles[2] then 2 else 0) + if x.axles[3] then 1 else 0
      (x.present = true → ∃ free, again (.readChannel r)
        (channel [BitVec.ofNat 8 (128 + sides), BitVec.ofNat 8 x.node] s.wcu.channels[c] free train)) ∧
      (x.present = false → ∃ free first node, BitVec.toNat first < 128 ∧ again (.readChannel r)
        (channel [first, node]
          { command := none, lastSent := 0, request := false, mask := none, awaiting := false, missCount := 0, lastReply := none,
            refreshTimer := none } free [0, 0]))) ∧
    (r.arg 0 = 0 → read (.readTyre r)
      (two s.twu.foreign ++ two s.twu.repeats ++ two s.twu.invalid ++
        [BitVec.ofNat 8 s.twu.deflated, BitVec.ofNat 8 s.evaluatedEntries.length])) ∧
    (20 < r.arg 0 → refused (.readTyre r) .badArgument) ∧
    (∀ b : Binding, b.code = r.arg 0 →
      (s.unbound b → refused (.readTyre r) .noSuchEntry) ∧
      (s.RegistryUnique → ∀ (i : Fin 20) (x : Bound), s.twu.entries[i] = some x → x.binding = b → read (.readTyre r)
        ([BitVec.ofNat 8 (i.val + 1)] ++ be32 x.ident.toNat ++
          [BitVec.ofNat 8 ((if s.evaluated x then 128 else 0) + x.reading.level.code)] ++ two (x.reading.pressure.getD 65535) ++
          [match x.reading.temperature with | some y => BitVec.ofNat 8 (y + 40).toNat | none => 255,
            match x.reading.count with | some y => BitVec.ofNat 8 y.toNat | none => 255] ++
          two ((x.reading.adj.map Int.toNat).getD 65535) ++
          [BitVec.ofNat 8
            ((if x.reading.hot then 16 else 0) + (if x.reading.battery then 8 else 0) + (if x.reading.stale then 4 else 0) +
              (if x.reading.deflMissing then 2 else 0) + if s.countsDeflated x then 1 else 0)] ++ left x.reading.missingTimer))) ∧
    (r.arg 0 = 0 → read (.readRegistry r)
      ([BitVec.ofNat 8 s.boundEntries.length, BitVec.ofNat 8 s.evaluatedEntries.length,
          BitVec.ofNat 8 ((s.twu.learn.map (·.binding.code)).getD 0)] ++ left (s.twu.learn.bind (·.timer)) ++
        [BitVec.ofNat 8 ((s.twu.half.map (·.binding.code)).getD 0)] ++ left (s.twu.half.bind (·.timer)))) ∧
    (20 < r.arg 0 → refused (.readRegistry r) .badArgument) ∧
    (∀ i : Fin 20, r.arg 0 = i.val + 1 →
      (s.twu.entries[i] = none → read (.readRegistry r) [0, 0, 0, 0, 0, 0]) ∧
      ∀ x, s.twu.entries[i] = some x → read (.readRegistry r)
        ([if s.evaluated x then 1 else 2] ++ be32 x.ident.toNat ++ [BitVec.ofNat 8 x.binding.code])) ∧
    (∃ f1 f2 f3, again (.identify r)
      (answerFrames p r.tag .done
        ([23, 64, Config.designRevision, BitVec.ofNat 8 p,
            BitVec.ofNat 8 (s.apu.power.code * 64 + if s.apu.configured then 1 else 0)] ++ be32 s.apu.seconds ++
          [BitVec.ofNat 8
              ((if s.apu.cause.powerOn then 1 else 0) + (if s.apu.cause.brownOut then 2 else 0) + if s.apu.cause.commanded then 4 else 0),
            BitVec.ofNat 8
              ((if s.lru.slotRelease.isSome then 4 else 0) + (if s.lru.slotInsert.isSome then 2 else 0) +
                if s.lru.slotService.isSome then 1 else 0),
            s.lru.slotRelease.getD f1, s.lru.slotInsert.getD f2, s.lru.slotService.getD f3] ++
          two s.lru.towDiscards ++ two s.lru.rearDiscards ++ two s.lru.rearOverflows ++ two s.lru.forwardOverflows ++
          two s.rst.drops))) ∧
    let count : Byte := BitVec.ofNat 8 ((List.finRange 23).filter fun k => s.isPending k).length
    let listed (k : Fin 23) : Prop := s.isPending k = true ∧ s.apu.alerts[k].ack = false
    (∀ k : Fin 23, listed k → (∀ j : Fin 23, j < k → ¬listed j) → read (.nextAlert r)
      [BitVec.ofNat 8 (k.val + 1), if isEventAlert k then 1 else 0, if s.tbu.active.alert[k].urgent then 1 else 0, count]) ∧
    ((∀ k : Fin 23, ¬listed k) → ∃ t, exec (.nextAlert r) s = .next t ∧
      s.Answers t [response p r.tag .none .noReason [count]])

/-! ## Alerts, RESET and the record store (chapters 9 and 10) -/

/-- R175, R177, R184, R186: ACK_ALERT, with the ALERT frame of a cleared event alert after its answer; CLEAR_CAUSE; and RESET, whose DONE is
marked so that the reset follows it (notes/assumptions/16.md), and which takes place at once when that DONE is dropped. -/
def Obligations.AlertAndResetRequestsAreDecided : Prop :=
  (∀ (s : State) (r : Request), s.Serves r.target → s.roomForward 2 →
    let answer (x : Result) (why : Reason) : CanFrame := response s.lru.position r.tag x why []
    (r.arg 0 = 0 ∨ 23 < r.arg 0 → ∃ t, exec (.ackAlert r) s = .next t ∧ s.Answers t [answer .refused .badArgument]) ∧
    (∀ k : Fin 23, r.arg 0 = k.val + 1 →
      (s.apu.alerts[k].flag = false → ∃ t, exec (.ackAlert r) s = .next t ∧ s.Answers t [answer .refused .noSuchEntry]) ∧
      (s.apu.alerts[k].flag = true → isEventAlert k = false → ∃ t, exec (.ackAlert r) s = .next t ∧
        (s.withAlert k { flag := true, ack := true }).Answers t [answer .done .noReason]) ∧
      (s.apu.alerts[k].flag = true → isEventAlert k = true → ∃ t, exec (.ackAlert r) s = .next t ∧
        (s.withAlert k { flag := false, ack := false }).Answers t
          (answer .done .noReason ::
            if s.tbu.active.alert[k].enable = true ∧ s.tbu.active.alert[k].urgent = true then [alertFrame s.lru.position k false]
            else []))) ∧
    ∃ t, exec (.clearCause r) s = .next t ∧
      State.Answers { s with apu := { s.apu with cause := { powerOn := false, brownOut := false, commanded := false } } } t
        [answer .done .noReason]) ∧
  ∀ (s : State) (r : Request), s.Serves r.target →
    let refused (why : Reason) : Prop :=
      ∃ t, exec (.reset r) s = .next t ∧ s.Answers t [response s.lru.position r.tag .refused why []]
    let taken := s.apu.resetPending = false ∧ s.wcu.refSpeed ≤ 20 ∧ (s.asv.supply = .parked ∨ s.asv.supply = .undetermined)
    (s.roomForward 1 → s.apu.resetPending = true → refused .busy) ∧
    (s.roomForward 1 → s.apu.resetPending = false → 20 < s.wcu.refSpeed → refused .moving) ∧
    (s.roomForward 1 → s.apu.resetPending = false → s.wcu.refSpeed ≤ 20 → s.asv.supply ≠ .parked → s.asv.supply ≠ .undetermined →
      refused .notParked) ∧
    (s.roomForward 1 → taken → ∃ t, exec (.reset r) s = .next t ∧
      State.Answers { s with apu := { s.apu with resetPending := true } } t [response s.lru.position r.tag .done .noReason []] ∧
      ∃ f ∈ t.lru.towTx.toList ++ t.lru.forwardQueue, f.resetDone = true) ∧
    (24 ≤ s.lru.forwardQueue.length → taken →
      exec (.reset r) s = .next (s.afterReset s.apu.towPower { s.apu.cause with commanded := true }))

/-- R193, 11.3: READ_RECORD_FIRST and READ_RECORD_NEXT search for the first VALID record of a kind, from slot 0 or from the record after the
cursor, up to the record in progress or the write position (notes/assumptions/13.md and 35.md). -/
def Obligations.RecordsAreRead : Prop :=
  ∀ (s : State) (r : Request), s.Serves r.target → s.roomForward 1 →
    let m := s.rst.memory
    let bound := match s.rst.writing with | some j => j.start | none => s.rst.writePos
    let answer (x : Result) (why : Reason) : CanFrame := response s.lru.position r.tag x why []
    let refused (c : Instr) (why : Reason) : Prop := ∃ t, exec c s = .next t ∧ s.Answers t [answer .refused why]
    let searches (c : Instr) (k : RecordKind) (start : Nat) : Prop :=
      (∀ n length, Scans m bound (validOf m k) start n → recordAt m bound n = some length → validOf m k n →
        let fs := answerFrames s.lru.position r.tag .done
          ([BitVec.ofNat 8 (n / 256), BitVec.ofNat 8 n, m.read (16 * n + 1), BitVec.ofNat 8 length, m.read (16 * n + 4)] ++
            dataAt m n length)
        s.roomForward fs.length → ∃ t, exec c s = .next t ∧
          State.Answers { s with rst := { s.rst with cursor := { slot := n, kind := some k, passed := true } } } t fs) ∧
      (∀ n, Scans m bound (validOf m k) start n → bound ≤ n → ∃ t, exec c s = .next t ∧
        State.Answers { s with rst := { s.rst with cursor := { slot := bound, kind := some k, passed := false } } } t
          [answer .none .noReason])
    ((∀ k : RecordKind, k.code ≠ r.arg 0) → refused (.readRecordFirst r) .badArgument) ∧
    (s.rst.erase ≠ none → (∀ k : RecordKind, k.code = r.arg 0 → refused (.readRecordFirst r) .busy) ∧ refused (.readRecordNext r) .busy) ∧
    (s.rst.erase = none → bound ≤ 1024 →
      (∀ k : RecordKind, k.code = r.arg 0 → searches (.readRecordFirst r) k 0) ∧
      (s.rst.cursor.kind = none → refused (.readRecordNext r) .noSuchEntry) ∧
      ∀ k, s.rst.cursor.kind = some k →
        (s.rst.cursor.passed = false → searches (.readRecordNext r) k s.rst.cursor.slot) ∧
        (s.rst.cursor.passed = true →
          (∀ length, recordAt m bound s.rst.cursor.slot = some length → searches (.readRecordNext r) k (s.rst.cursor.slot + length)) ∧
          (recordAt m bound s.rst.cursor.slot = none → searches (.readRecordNext r) k (s.rst.cursor.slot + 1))))

/-- R194, R195: ERASE_STORE, and the end of the erase, at which every slot is BLANK and the rebase begins with the AXLE table. That NOT_PARKED is
the reason when an erase is in flight too (notes/assumptions/45.md) and that every byte of a BLANK slot reads 255 (notes/assumptions/7.md) are
the model's choice, and the end of an erase that is not in flight changes nothing (notes/assumptions/5.md). -/
def Obligations.StoreIsErased : Prop :=
  (∀ (s : State) (r : Request), s.Serves r.target → s.roomForward 1 →
    let answer (x : Result) (why : Reason) : List CanFrame := [response s.lru.position r.tag x why []]
    (s.asv.supply ≠ .parked → ∃ t, exec (.eraseStore r) s = .next t ∧ s.Answers t (answer .refused .notParked)) ∧
    (s.asv.supply = .parked → s.rst.erase ≠ none → ∃ t, exec (.eraseStore r) s = .next t ∧ s.Answers t (answer .refused .busy)) ∧
    (s.asv.supply = .parked → s.rst.erase = none → ∃ t, exec (.eraseStore r) s = .next t ∧
      State.Answers
        { s with rst := { s.rst with
            erase := some { tag := r.tag, phase := if s.rst.writing = none then .erasing else .waiting } } } t
        (answer .accepted .noReason))) ∧
  ∀ s : State,
    (∀ tag, s.rst.erase = some { tag := tag, phase := .erasing } → ∃ t, exec .eraseEnd s = .next t ∧
      (∀ a, t.rst.memory.read a = 255) ∧
      State.HandsTo
        { s with rst := { s.rst with
            memory := [], cursor := { slot := 0, kind := none, passed := false },
            writing := some { record := tableRecord s.tbu.active .axle, start := 0, stage := .header }, writePos := 3,
            erase := some { tag := tag, phase := .rebasing 1 } } } t) ∧
    ((∀ tag, s.rst.erase ≠ some { tag := tag, phase := .erasing }) → exec .eraseEnd s = .next s)

/-- R190, R191, R194, R195, 11.6: RECORD_SLOT_WRITTEN completes a step of the write in progress. A slot that reads back as written goes on to
the next step or ends the write; another is a write fault, which leaves what it reads back as, or the predecessor as it stood in step 5
(notes/assumptions/11.md), sets STORE_FAULT and ends the write. A rebase record has no predecessor to supersede, even where a faulted slot reads
back as one (notes/assumptions/49.md). Bytes outside the slot are unchanged. With no write in progress nothing
changes (notes/assumptions/5.md), and a slot of 1,024 or more stops (notes/assumptions/31.md). -/
def Obligations.SlotsAreWritten : Prop :=
  (∀ (s : State) (readBack : Option SlotBytes), s.rst.writing = none → exec (.recordSlotWritten readBack) s = .next s) ∧
  (∀ (s : State) (j : WriteJob) (slot : Nat) (bytes : SlotBytes) (readBack : Option SlotBytes), s.rst.writing = some j →
    j.Writes s.rst.memory slot bytes →
    (1024 ≤ slot → exec (.recordSlotWritten readBack) s = .fault .storeAddress) ∧
    (slot < 1024 → readBack = none ∨ readBack = some bytes →
      let m := s.rst.memory.writeSlot slot bytes
      let written : State := { s with rst := { s.rst with memory := m } }
      (∃ next, j.Follows m s.rst.Rebases next) ∧
      ∀ next, j.Follows m s.rst.Rebases next →
        (∀ stage, next = some stage → ∃ t, exec (.recordSlotWritten readBack) s = .next t ∧
          State.HandsTo { written with rst := { written.rst with writing := some { j with stage := stage } } } t) ∧
        (next = none → ∀ E fs, written.WriteEnds E fs → ∃ t, exec (.recordSlotWritten readBack) s = .next t ∧ E.HandsTo t ∧
          (s.apu.power = .run → s.roomForward fs.length → E.Sends t fs))) ∧
    (slot < 1024 → ∀ other, readBack = some other → other ≠ bytes →
      let m := match j.stage with | .supersede _ => s.rst.memory | _ => s.rst.memory.writeSlot slot other
      let faulted : State := ({ s with rst := { s.rst with memory := m } } : State).withFlag .storeFault
      ∀ E fs, faulted.WriteEnds E fs → ∃ t, exec (.recordSlotWritten readBack) s = .next t ∧ E.HandsTo t ∧
        (s.apu.power = .run → s.roomForward fs.length → E.Sends t fs))) ∧
  (∀ s : State, ∃ E fs, s.WriteEnds E fs) ∧
  ∀ (m : Memory) (n : Nat) (bytes : SlotBytes), Memory.wf m → n < 1024 →
    (∀ b : Fin 16, (m.writeSlot n bytes).read (16 * n + b.val) = bytes[b]) ∧
      ∀ a, a < 16 * n ∨ 16 * n + 16 ≤ a → (m.writeSlot n bytes).read a = m.read a
end

