-- ==== Sys2Proof/Laws/State.lean ====
section
/-! SUPPORT. One lemma per field per update of an event: what each setter writes and what it leaves. -/

namespace Sys2Proof.Machine

variable (e : Ev)

@[simp] theorem Ev.setAsv_asv (x : Asv) : (e.setAsv x).asv = x := rfl
@[simp] theorem Ev.setAsv_lap (x : Asv) : (e.setAsv x).lap = e.lap := rfl
@[simp] theorem Ev.setAsv_wcu (x : Asv) : (e.setAsv x).wcu = e.wcu := rfl
@[simp] theorem Ev.setAsv_rou (x : Asv) : (e.setAsv x).rou = e.rou := rfl
@[simp] theorem Ev.setAsv_twu (x : Asv) : (e.setAsv x).twu = e.twu := rfl
@[simp] theorem Ev.setAsv_tbu (x : Asv) : (e.setAsv x).tbu = e.tbu := rfl
@[simp] theorem Ev.setAsv_lru (x : Asv) : (e.setAsv x).lru = e.lru := rfl
@[simp] theorem Ev.setAsv_apu (x : Asv) : (e.setAsv x).apu = e.apu := rfl
@[simp] theorem Ev.setAsv_rst (x : Asv) : (e.setAsv x).rst = e.rst := rfl
@[simp] theorem Ev.setAsv_clock (x : Asv) : (e.setAsv x).clock = e.clock := rfl
@[simp] theorem Ev.setAsv_pending (x : Asv) : (e.setAsv x).pending = e.pending := rfl
@[simp] theorem Ev.setAsv_answers (x : Asv) : (e.setAsv x).answers = e.answers := rfl
@[simp] theorem Ev.setAsv_notices (x : Asv) : (e.setAsv x).notices = e.notices := rfl
@[simp] theorem Ev.setAsv_resetNow (x : Asv) : (e.setAsv x).resetNow = e.resetNow := rfl

@[simp] theorem Ev.setLap_asv (x : Lap) : (e.setLap x).asv = e.asv := rfl
@[simp] theorem Ev.setLap_lap (x : Lap) : (e.setLap x).lap = x := rfl
@[simp] theorem Ev.setLap_wcu (x : Lap) : (e.setLap x).wcu = e.wcu := rfl
@[simp] theorem Ev.setLap_rou (x : Lap) : (e.setLap x).rou = e.rou := rfl
@[simp] theorem Ev.setLap_twu (x : Lap) : (e.setLap x).twu = e.twu := rfl
@[simp] theorem Ev.setLap_tbu (x : Lap) : (e.setLap x).tbu = e.tbu := rfl
@[simp] theorem Ev.setLap_lru (x : Lap) : (e.setLap x).lru = e.lru := rfl
@[simp] theorem Ev.setLap_apu (x : Lap) : (e.setLap x).apu = e.apu := rfl
@[simp] theorem Ev.setLap_rst (x : Lap) : (e.setLap x).rst = e.rst := rfl
@[simp] theorem Ev.setLap_clock (x : Lap) : (e.setLap x).clock = e.clock := rfl
@[simp] theorem Ev.setLap_pending (x : Lap) : (e.setLap x).pending = e.pending := rfl
@[simp] theorem Ev.setLap_answers (x : Lap) : (e.setLap x).answers = e.answers := rfl
@[simp] theorem Ev.setLap_notices (x : Lap) : (e.setLap x).notices = e.notices := rfl
@[simp] theorem Ev.setLap_resetNow (x : Lap) : (e.setLap x).resetNow = e.resetNow := rfl

@[simp] theorem Ev.setWcu_asv (x : Wcu) : (e.setWcu x).asv = e.asv := rfl
@[simp] theorem Ev.setWcu_lap (x : Wcu) : (e.setWcu x).lap = e.lap := rfl
@[simp] theorem Ev.setWcu_wcu (x : Wcu) : (e.setWcu x).wcu = x := rfl
@[simp] theorem Ev.setWcu_rou (x : Wcu) : (e.setWcu x).rou = e.rou := rfl
@[simp] theorem Ev.setWcu_twu (x : Wcu) : (e.setWcu x).twu = e.twu := rfl
@[simp] theorem Ev.setWcu_tbu (x : Wcu) : (e.setWcu x).tbu = e.tbu := rfl
@[simp] theorem Ev.setWcu_lru (x : Wcu) : (e.setWcu x).lru = e.lru := rfl
@[simp] theorem Ev.setWcu_apu (x : Wcu) : (e.setWcu x).apu = e.apu := rfl
@[simp] theorem Ev.setWcu_rst (x : Wcu) : (e.setWcu x).rst = e.rst := rfl
@[simp] theorem Ev.setWcu_clock (x : Wcu) : (e.setWcu x).clock = e.clock := rfl
@[simp] theorem Ev.setWcu_pending (x : Wcu) : (e.setWcu x).pending = e.pending := rfl
@[simp] theorem Ev.setWcu_answers (x : Wcu) : (e.setWcu x).answers = e.answers := rfl
@[simp] theorem Ev.setWcu_notices (x : Wcu) : (e.setWcu x).notices = e.notices := rfl
@[simp] theorem Ev.setWcu_resetNow (x : Wcu) : (e.setWcu x).resetNow = e.resetNow := rfl

@[simp] theorem Ev.setRou_asv (x : Rou) : (e.setRou x).asv = e.asv := rfl
@[simp] theorem Ev.setRou_lap (x : Rou) : (e.setRou x).lap = e.lap := rfl
@[simp] theorem Ev.setRou_wcu (x : Rou) : (e.setRou x).wcu = e.wcu := rfl
@[simp] theorem Ev.setRou_rou (x : Rou) : (e.setRou x).rou = x := rfl
@[simp] theorem Ev.setRou_twu (x : Rou) : (e.setRou x).twu = e.twu := rfl
@[simp] theorem Ev.setRou_tbu (x : Rou) : (e.setRou x).tbu = e.tbu := rfl
@[simp] theorem Ev.setRou_lru (x : Rou) : (e.setRou x).lru = e.lru := rfl
@[simp] theorem Ev.setRou_apu (x : Rou) : (e.setRou x).apu = e.apu := rfl
@[simp] theorem Ev.setRou_rst (x : Rou) : (e.setRou x).rst = e.rst := rfl
@[simp] theorem Ev.setRou_clock (x : Rou) : (e.setRou x).clock = e.clock := rfl
@[simp] theorem Ev.setRou_pending (x : Rou) : (e.setRou x).pending = e.pending := rfl
@[simp] theorem Ev.setRou_answers (x : Rou) : (e.setRou x).answers = e.answers := rfl
@[simp] theorem Ev.setRou_notices (x : Rou) : (e.setRou x).notices = e.notices := rfl
@[simp] theorem Ev.setRou_resetNow (x : Rou) : (e.setRou x).resetNow = e.resetNow := rfl

@[simp] theorem Ev.setTwu_asv (x : Twu) : (e.setTwu x).asv = e.asv := rfl
@[simp] theorem Ev.setTwu_lap (x : Twu) : (e.setTwu x).lap = e.lap := rfl
@[simp] theorem Ev.setTwu_wcu (x : Twu) : (e.setTwu x).wcu = e.wcu := rfl
@[simp] theorem Ev.setTwu_rou (x : Twu) : (e.setTwu x).rou = e.rou := rfl
@[simp] theorem Ev.setTwu_twu (x : Twu) : (e.setTwu x).twu = x := rfl
@[simp] theorem Ev.setTwu_tbu (x : Twu) : (e.setTwu x).tbu = e.tbu := rfl
@[simp] theorem Ev.setTwu_lru (x : Twu) : (e.setTwu x).lru = e.lru := rfl
@[simp] theorem Ev.setTwu_apu (x : Twu) : (e.setTwu x).apu = e.apu := rfl
@[simp] theorem Ev.setTwu_rst (x : Twu) : (e.setTwu x).rst = e.rst := rfl
@[simp] theorem Ev.setTwu_clock (x : Twu) : (e.setTwu x).clock = e.clock := rfl
@[simp] theorem Ev.setTwu_pending (x : Twu) : (e.setTwu x).pending = e.pending := rfl
@[simp] theorem Ev.setTwu_answers (x : Twu) : (e.setTwu x).answers = e.answers := rfl
@[simp] theorem Ev.setTwu_notices (x : Twu) : (e.setTwu x).notices = e.notices := rfl
@[simp] theorem Ev.setTwu_resetNow (x : Twu) : (e.setTwu x).resetNow = e.resetNow := rfl

@[simp] theorem Ev.setTbu_asv (x : Tbu) : (e.setTbu x).asv = e.asv := rfl
@[simp] theorem Ev.setTbu_lap (x : Tbu) : (e.setTbu x).lap = e.lap := rfl
@[simp] theorem Ev.setTbu_wcu (x : Tbu) : (e.setTbu x).wcu = e.wcu := rfl
@[simp] theorem Ev.setTbu_rou (x : Tbu) : (e.setTbu x).rou = e.rou := rfl
@[simp] theorem Ev.setTbu_twu (x : Tbu) : (e.setTbu x).twu = e.twu := rfl
@[simp] theorem Ev.setTbu_tbu (x : Tbu) : (e.setTbu x).tbu = x := rfl
@[simp] theorem Ev.setTbu_lru (x : Tbu) : (e.setTbu x).lru = e.lru := rfl
@[simp] theorem Ev.setTbu_apu (x : Tbu) : (e.setTbu x).apu = e.apu := rfl
@[simp] theorem Ev.setTbu_rst (x : Tbu) : (e.setTbu x).rst = e.rst := rfl
@[simp] theorem Ev.setTbu_clock (x : Tbu) : (e.setTbu x).clock = e.clock := rfl
@[simp] theorem Ev.setTbu_pending (x : Tbu) : (e.setTbu x).pending = e.pending := rfl
@[simp] theorem Ev.setTbu_answers (x : Tbu) : (e.setTbu x).answers = e.answers := rfl
@[simp] theorem Ev.setTbu_notices (x : Tbu) : (e.setTbu x).notices = e.notices := rfl
@[simp] theorem Ev.setTbu_resetNow (x : Tbu) : (e.setTbu x).resetNow = e.resetNow := rfl

@[simp] theorem Ev.setLru_asv (x : Lru) : (e.setLru x).asv = e.asv := rfl
@[simp] theorem Ev.setLru_lap (x : Lru) : (e.setLru x).lap = e.lap := rfl
@[simp] theorem Ev.setLru_wcu (x : Lru) : (e.setLru x).wcu = e.wcu := rfl
@[simp] theorem Ev.setLru_rou (x : Lru) : (e.setLru x).rou = e.rou := rfl
@[simp] theorem Ev.setLru_twu (x : Lru) : (e.setLru x).twu = e.twu := rfl
@[simp] theorem Ev.setLru_tbu (x : Lru) : (e.setLru x).tbu = e.tbu := rfl
@[simp] theorem Ev.setLru_lru (x : Lru) : (e.setLru x).lru = x := rfl
@[simp] theorem Ev.setLru_apu (x : Lru) : (e.setLru x).apu = e.apu := rfl
@[simp] theorem Ev.setLru_rst (x : Lru) : (e.setLru x).rst = e.rst := rfl
@[simp] theorem Ev.setLru_clock (x : Lru) : (e.setLru x).clock = e.clock := rfl
@[simp] theorem Ev.setLru_pending (x : Lru) : (e.setLru x).pending = e.pending := rfl
@[simp] theorem Ev.setLru_answers (x : Lru) : (e.setLru x).answers = e.answers := rfl
@[simp] theorem Ev.setLru_notices (x : Lru) : (e.setLru x).notices = e.notices := rfl
@[simp] theorem Ev.setLru_resetNow (x : Lru) : (e.setLru x).resetNow = e.resetNow := rfl

@[simp] theorem Ev.setApu_asv (x : Apu) : (e.setApu x).asv = e.asv := rfl
@[simp] theorem Ev.setApu_lap (x : Apu) : (e.setApu x).lap = e.lap := rfl
@[simp] theorem Ev.setApu_wcu (x : Apu) : (e.setApu x).wcu = e.wcu := rfl
@[simp] theorem Ev.setApu_rou (x : Apu) : (e.setApu x).rou = e.rou := rfl
@[simp] theorem Ev.setApu_twu (x : Apu) : (e.setApu x).twu = e.twu := rfl
@[simp] theorem Ev.setApu_tbu (x : Apu) : (e.setApu x).tbu = e.tbu := rfl
@[simp] theorem Ev.setApu_lru (x : Apu) : (e.setApu x).lru = e.lru := rfl
@[simp] theorem Ev.setApu_apu (x : Apu) : (e.setApu x).apu = x := rfl
@[simp] theorem Ev.setApu_rst (x : Apu) : (e.setApu x).rst = e.rst := rfl
@[simp] theorem Ev.setApu_clock (x : Apu) : (e.setApu x).clock = e.clock := rfl
@[simp] theorem Ev.setApu_pending (x : Apu) : (e.setApu x).pending = e.pending := rfl
@[simp] theorem Ev.setApu_answers (x : Apu) : (e.setApu x).answers = e.answers := rfl
@[simp] theorem Ev.setApu_notices (x : Apu) : (e.setApu x).notices = e.notices := rfl
@[simp] theorem Ev.setApu_resetNow (x : Apu) : (e.setApu x).resetNow = e.resetNow := rfl

@[simp] theorem Ev.setRst_asv (x : Rst) : (e.setRst x).asv = e.asv := rfl
@[simp] theorem Ev.setRst_lap (x : Rst) : (e.setRst x).lap = e.lap := rfl
@[simp] theorem Ev.setRst_wcu (x : Rst) : (e.setRst x).wcu = e.wcu := rfl
@[simp] theorem Ev.setRst_rou (x : Rst) : (e.setRst x).rou = e.rou := rfl
@[simp] theorem Ev.setRst_twu (x : Rst) : (e.setRst x).twu = e.twu := rfl
@[simp] theorem Ev.setRst_tbu (x : Rst) : (e.setRst x).tbu = e.tbu := rfl
@[simp] theorem Ev.setRst_lru (x : Rst) : (e.setRst x).lru = e.lru := rfl
@[simp] theorem Ev.setRst_apu (x : Rst) : (e.setRst x).apu = e.apu := rfl
@[simp] theorem Ev.setRst_rst (x : Rst) : (e.setRst x).rst = x := rfl
@[simp] theorem Ev.setRst_clock (x : Rst) : (e.setRst x).clock = e.clock := rfl
@[simp] theorem Ev.setRst_pending (x : Rst) : (e.setRst x).pending = e.pending := rfl
@[simp] theorem Ev.setRst_answers (x : Rst) : (e.setRst x).answers = e.answers := rfl
@[simp] theorem Ev.setRst_notices (x : Rst) : (e.setRst x).notices = e.notices := rfl
@[simp] theorem Ev.setRst_resetNow (x : Rst) : (e.setRst x).resetNow = e.resetNow := rfl


@[simp] theorem Ev.answer_asv (a : Answer) : (e.answer a).asv = e.asv := rfl
@[simp] theorem Ev.answer_lap (a : Answer) : (e.answer a).lap = e.lap := rfl
@[simp] theorem Ev.answer_wcu (a : Answer) : (e.answer a).wcu = e.wcu := rfl
@[simp] theorem Ev.answer_rou (a : Answer) : (e.answer a).rou = e.rou := rfl
@[simp] theorem Ev.answer_twu (a : Answer) : (e.answer a).twu = e.twu := rfl
@[simp] theorem Ev.answer_tbu (a : Answer) : (e.answer a).tbu = e.tbu := rfl
@[simp] theorem Ev.answer_lru (a : Answer) : (e.answer a).lru = e.lru := rfl
@[simp] theorem Ev.answer_apu (a : Answer) : (e.answer a).apu = e.apu := rfl
@[simp] theorem Ev.answer_rst (a : Answer) : (e.answer a).rst = e.rst := rfl
@[simp] theorem Ev.answer_clock (a : Answer) : (e.answer a).clock = e.clock := rfl
@[simp] theorem Ev.answer_pending (a : Answer) : (e.answer a).pending = e.pending := rfl
@[simp] theorem Ev.answer_answers (a : Answer) : (e.answer a).answers = e.answers ++ [a] := rfl
@[simp] theorem Ev.answer_notices (a : Answer) : (e.answer a).notices = e.notices := rfl
@[simp] theorem Ev.answer_resetNow (a : Answer) : (e.answer a).resetNow = e.resetNow := rfl

@[simp] theorem Ev.notice_asv (n : Notice) : (e.notice n).asv = e.asv := rfl
@[simp] theorem Ev.notice_lap (n : Notice) : (e.notice n).lap = e.lap := rfl
@[simp] theorem Ev.notice_wcu (n : Notice) : (e.notice n).wcu = e.wcu := rfl
@[simp] theorem Ev.notice_rou (n : Notice) : (e.notice n).rou = e.rou := rfl
@[simp] theorem Ev.notice_twu (n : Notice) : (e.notice n).twu = e.twu := rfl
@[simp] theorem Ev.notice_tbu (n : Notice) : (e.notice n).tbu = e.tbu := rfl
@[simp] theorem Ev.notice_lru (n : Notice) : (e.notice n).lru = e.lru := rfl
@[simp] theorem Ev.notice_apu (n : Notice) : (e.notice n).apu = e.apu := rfl
@[simp] theorem Ev.notice_rst (n : Notice) : (e.notice n).rst = e.rst := rfl
@[simp] theorem Ev.notice_clock (n : Notice) : (e.notice n).clock = e.clock := rfl
@[simp] theorem Ev.notice_pending (n : Notice) : (e.notice n).pending = e.pending := rfl
@[simp] theorem Ev.notice_answers (n : Notice) : (e.notice n).answers = e.answers := rfl
@[simp] theorem Ev.notice_notices (n : Notice) : (e.notice n).notices = e.notices ++ [n] := rfl
@[simp] theorem Ev.notice_resetNow (n : Notice) : (e.notice n).resetNow = e.resetNow := rfl

@[simp] theorem Ev.result_asv (tag : Tag) (r : Result) : (e.result tag r).asv = e.asv := rfl
@[simp] theorem Ev.result_lap (tag : Tag) (r : Result) : (e.result tag r).lap = e.lap := rfl
@[simp] theorem Ev.result_wcu (tag : Tag) (r : Result) : (e.result tag r).wcu = e.wcu := rfl
@[simp] theorem Ev.result_rou (tag : Tag) (r : Result) : (e.result tag r).rou = e.rou := rfl
@[simp] theorem Ev.result_twu (tag : Tag) (r : Result) : (e.result tag r).twu = e.twu := rfl
@[simp] theorem Ev.result_tbu (tag : Tag) (r : Result) : (e.result tag r).tbu = e.tbu := rfl
@[simp] theorem Ev.result_lru (tag : Tag) (r : Result) : (e.result tag r).lru = e.lru := rfl
@[simp] theorem Ev.result_apu (tag : Tag) (r : Result) : (e.result tag r).apu = e.apu := rfl
@[simp] theorem Ev.result_rst (tag : Tag) (r : Result) : (e.result tag r).rst = e.rst := rfl
@[simp] theorem Ev.result_clock (tag : Tag) (r : Result) : (e.result tag r).clock = e.clock := rfl
@[simp] theorem Ev.result_pending (tag : Tag) (r : Result) : (e.result tag r).pending = e.pending := rfl
@[simp] theorem Ev.result_answers (tag : Tag) (r : Result) : (e.result tag r).answers = e.answers ++ [{ tag := tag, result := r }] := rfl
@[simp] theorem Ev.result_notices (tag : Tag) (r : Result) : (e.result tag r).notices = e.notices := rfl
@[simp] theorem Ev.result_resetNow (tag : Tag) (r : Result) : (e.result tag r).resetNow = e.resetNow := rfl

@[simp] theorem Ev.refuse_asv (tag : Tag) (r : Reason) : (e.refuse tag r).asv = e.asv := rfl
@[simp] theorem Ev.refuse_lap (tag : Tag) (r : Reason) : (e.refuse tag r).lap = e.lap := rfl
@[simp] theorem Ev.refuse_wcu (tag : Tag) (r : Reason) : (e.refuse tag r).wcu = e.wcu := rfl
@[simp] theorem Ev.refuse_rou (tag : Tag) (r : Reason) : (e.refuse tag r).rou = e.rou := rfl
@[simp] theorem Ev.refuse_twu (tag : Tag) (r : Reason) : (e.refuse tag r).twu = e.twu := rfl
@[simp] theorem Ev.refuse_tbu (tag : Tag) (r : Reason) : (e.refuse tag r).tbu = e.tbu := rfl
@[simp] theorem Ev.refuse_lru (tag : Tag) (r : Reason) : (e.refuse tag r).lru = e.lru := rfl
@[simp] theorem Ev.refuse_apu (tag : Tag) (r : Reason) : (e.refuse tag r).apu = e.apu := rfl
@[simp] theorem Ev.refuse_rst (tag : Tag) (r : Reason) : (e.refuse tag r).rst = e.rst := rfl
@[simp] theorem Ev.refuse_clock (tag : Tag) (r : Reason) : (e.refuse tag r).clock = e.clock := rfl
@[simp] theorem Ev.refuse_pending (tag : Tag) (r : Reason) : (e.refuse tag r).pending = e.pending := rfl
@[simp] theorem Ev.refuse_answers (tag : Tag) (r : Reason) : (e.refuse tag r).answers = e.answers ++ [{ tag := tag, result := .refused, reason := r }] := rfl
@[simp] theorem Ev.refuse_notices (tag : Tag) (r : Reason) : (e.refuse tag r).notices = e.notices := rfl
@[simp] theorem Ev.refuse_resetNow (tag : Tag) (r : Reason) : (e.refuse tag r).resetNow = e.resetNow := rfl

@[simp] theorem Ev.start_asv (s : State) : (Ev.start s).asv = s.asv := rfl
@[simp] theorem Ev.start_lap (s : State) : (Ev.start s).lap = s.lap := rfl
@[simp] theorem Ev.start_wcu (s : State) : (Ev.start s).wcu = s.wcu := rfl
@[simp] theorem Ev.start_rou (s : State) : (Ev.start s).rou = s.rou := rfl
@[simp] theorem Ev.start_twu (s : State) : (Ev.start s).twu = s.twu := rfl
@[simp] theorem Ev.start_tbu (s : State) : (Ev.start s).tbu = s.tbu := rfl
@[simp] theorem Ev.start_lru (s : State) : (Ev.start s).lru = s.lru := rfl
@[simp] theorem Ev.start_apu (s : State) : (Ev.start s).apu = s.apu := rfl
@[simp] theorem Ev.start_rst (s : State) : (Ev.start s).rst = s.rst := rfl
@[simp] theorem Ev.start_clock (s : State) : (Ev.start s).clock = s.clock := rfl
@[simp] theorem Ev.start_pending (s : State) : (Ev.start s).pending = s.pending := rfl
@[simp] theorem Ev.start_answers (s : State) : (Ev.start s).answers = [] := rfl
@[simp] theorem Ev.start_notices (s : State) : (Ev.start s).notices = [] := rfl
@[simp] theorem Ev.start_resetNow (s : State) : (Ev.start s).resetNow = false := rfl
@[simp] theorem Ev.start_toState (s : State) : (Ev.start s).toState = s := rfl

end Sys2Proof.Machine
end

