-- ==== Sys2Proof/Laws/Keeps.lean ====
section
/-! SUPPORT. What the closing work of an event leaves: one lemma per shared operation, at three levels. `Ev.Quiet`: an operation that forms
only what is derived. `Ev.Steady`: one that may also start or end the service actuation. `Ev.Keeps`: one that may also perform an
insertion. -/

namespace Sys2Proof.Machine

/-! ## The relations -/

theorem valveFollows.trans {n m : Nat} {a b c : Option ValveOp} (hn : m = n) (h : valveFollows n a b) (g : valveFollows m b c) :
    valveFollows n a c := by
  subst hn
  rcases g with g | ⟨op, g1, g2, g3⟩
  · rcases h with h | ⟨op, h1, h2, h3⟩
    · exact .inl (g.trans h)
    · exact .inr ⟨op, h1, h2, g.trans h3⟩
  · rcases h with h | ⟨op', h1, h2, h3⟩
    · exact .inr ⟨op, h ▸ g1, g2, g3⟩
    · rw [h3] at g1; cases g1; cases g2

theorem State.Keeps.refl (s : State) : s.Keeps s :=
  ⟨rfl, .inl rfl, rfl, rfl, rfl, rfl, rfl, rfl, rfl, rfl, fun _ _ h => h, fun _ _ h => h⟩

theorem State.Keeps.trans {a b c : State} (h : a.Keeps b) (g : b.Keeps c) : a.Keeps c :=
  ⟨g.asv.trans h.asv, h.valve.trans h.clock g.valve, g.lru.trans h.lru, g.apu.trans h.apu, g.rst.trans h.rst,
    g.foreign.trans h.foreign, g.repeats.trans h.repeats, g.invalid.trans h.invalid, g.clock.trans h.clock, g.pending.trans h.pending,
    fun k hk hf => g.events k hk (h.events k hk hf), fun k hk hf => h.acks k hk (g.acks k hk hf)⟩

theorem State.Stays.refl (s : State) : s.Stays s := ⟨rfl, rfl, rfl, rfl, fun _ => rfl, rfl⟩

theorem State.Stays.trans {a b c : State} (h : a.Stays b) (g : b.Stays c) : a.Stays c :=
  ⟨g.configured.trans h.configured, g.tbu.trans h.tbu, g.twu.trans h.twu, g.rou.trans h.rou, fun i => (g.axles i).trans (h.axles i), g.trainA.trans h.trainA⟩

theorem State.Rests.refl (s : State) : s.Rests s := ⟨rfl, rfl, rfl⟩

theorem State.Rests.trans {a b c : State} (h : a.Rests b) (g : b.Rests c) : a.Rests c :=
  ⟨g.trainB.trans h.trainB, g.service.trans h.service, g.lru.trans h.lru⟩

/-- What every operation of the closing work leaves. -/
structure Ev.Keeps (e e' : Ev) : Prop where
  keeps : e.toState.Keeps e'.toState
  resetNow : e'.resetNow = e.resetNow
  lru : e'.lru.core = e.lru.core
  answers : e.answers <+: e'.answers
  occurrences : ∀ k : Fin 23, isEventAlert k = true → k ≠ AlertKind.tableInsertFailed.index → e'.apu.alerts[k] = e.apu.alerts[k]

/-- What every one but an insertion leaves. -/
structure Ev.Steady (e e' : Ev) : Prop extends Ev.Keeps e e' where
  stays : e.toState.Stays e'.toState
  rst : e'.rst = e.rst
  events : ∀ k : Fin 23, isEventAlert k = true → e'.apu.alerts[k] = e.apu.alerts[k]

/-- What every one but an insertion and the service actuation's start or end leaves. -/
structure Ev.Quiet (e e' : Ev) : Prop extends Ev.Steady e e' where
  rests : e.toState.Rests e'.toState
  sameLru : e'.lru = e.lru
  sameAnswers : e'.answers = e.answers

theorem Ev.Keeps.refl (e : Ev) : Ev.Keeps e e := ⟨.refl _, rfl, rfl, List.prefix_rfl, fun _ _ _ => rfl⟩
theorem Ev.Steady.refl (e : Ev) : Ev.Steady e e := ⟨.refl _, .refl _, rfl, fun _ _ => rfl⟩
theorem Ev.Quiet.refl (e : Ev) : Ev.Quiet e e := ⟨.refl _, .refl _, rfl, rfl⟩

theorem Ev.Keeps.trans {a b c : Ev} (h : Ev.Keeps a b) (g : Ev.Keeps b c) : Ev.Keeps a c :=
  ⟨h.keeps.trans g.keeps, g.resetNow.trans h.resetNow, g.lru.trans h.lru, h.answers.trans g.answers,
    fun k hk hn => (g.occurrences k hk hn).trans (h.occurrences k hk hn)⟩
theorem Ev.Steady.trans {a b c : Ev} (h : Ev.Steady a b) (g : Ev.Steady b c) : Ev.Steady a c :=
  ⟨h.toKeeps.trans g.toKeeps, h.stays.trans g.stays, g.rst.trans h.rst, fun k hk => (g.events k hk).trans (h.events k hk)⟩
theorem Ev.Quiet.trans {a b c : Ev} (h : Ev.Quiet a b) (g : Ev.Quiet b c) : Ev.Quiet a c :=
  ⟨h.toSteady.trans g.toSteady, h.rests.trans g.rests, g.sameLru.trans h.sameLru, g.sameAnswers.trans h.sameAnswers⟩

/-- A fold of operations that keep, keeps. -/
theorem Ev.Keeps.foldl {α : Type} (f : Ev → α → Ev) (h : ∀ e a, Ev.Keeps e (f e a)) (l : List α) (e : Ev) :
    Ev.Keeps e (l.foldl f e) := by
  induction l generalizing e with
  | nil => exact .refl e
  | cons a l ih => exact (h e a).trans (ih (f e a))

/-- A choice of two quiet operations is quiet. -/
theorem Ev.Quiet.ite {p : Prop} [Decidable p] {e a b : Ev} (h : Ev.Quiet e a) (g : Ev.Quiet e b) : Ev.Quiet e (if p then a else b) := by
  split
  · exact h
  · exact g

section
variable (e : Ev)

/-! ## Updates -/

theorem Ev.Quiet.setLap (x : Lap) (h : ∀ a : Fin 4, x.axles[a].core = e.lap.axles[a].core) : Ev.Quiet e (e.setLap x) :=
  ⟨⟨⟨⟨rfl, .inl rfl, rfl, rfl, rfl, rfl, rfl, rfl, rfl, rfl, fun _ _ h => h, fun _ _ h => h⟩, rfl, rfl, List.prefix_rfl, fun _ _ _ => rfl⟩,
    ⟨rfl, rfl, rfl, rfl, h, rfl⟩, rfl, fun _ _ => rfl⟩, ⟨rfl, rfl, rfl⟩, rfl, rfl⟩

theorem Ev.Quiet.setWcu (x : Wcu) (ha : x.trainA = e.wcu.trainA) (hb : x.trainB = e.wcu.trainB) (hs : x.service = e.wcu.service) :
    Ev.Quiet e (e.setWcu x) :=
  ⟨⟨⟨⟨rfl, .inl rfl, rfl, rfl, rfl, rfl, rfl, rfl, rfl, rfl, fun _ _ h => h, fun _ _ h => h⟩, rfl, rfl, List.prefix_rfl, fun _ _ _ => rfl⟩,
    ⟨rfl, rfl, rfl, rfl, fun _ => rfl, ha⟩, rfl, fun _ _ => rfl⟩, ⟨hb, hs, rfl⟩, rfl, rfl⟩

theorem Ev.Quiet.setRou (x : Rou) (h : x.core = e.rou.core) : Ev.Quiet e (e.setRou x) :=
  ⟨⟨⟨⟨rfl, .inl rfl, rfl, rfl, rfl, rfl, rfl, rfl, rfl, rfl, fun _ _ h => h, fun _ _ h => h⟩, rfl, rfl, List.prefix_rfl, fun _ _ _ => rfl⟩,
    ⟨rfl, rfl, rfl, h, fun _ => rfl, rfl⟩, rfl, fun _ _ => rfl⟩, ⟨rfl, rfl, rfl⟩, rfl, rfl⟩

theorem Ev.Quiet.setDeflated (n : Nat) : Ev.Quiet e (e.setTwu { e.twu with deflated := n }) :=
  ⟨⟨⟨⟨rfl, .inl rfl, rfl, rfl, rfl, rfl, rfl, rfl, rfl, rfl, fun _ _ h => h, fun _ _ h => h⟩, rfl, rfl, List.prefix_rfl, fun _ _ _ => rfl⟩,
    ⟨rfl, rfl, rfl, rfl, fun _ => rfl, rfl⟩, rfl, fun _ _ => rfl⟩, ⟨rfl, rfl, rfl⟩, rfl, rfl⟩

theorem Ev.Quiet.setApu (x : Apu) (h : x.core = e.apu.core) (hc : x.configured = e.apu.configured)
    (he : ∀ k : Fin 23, isEventAlert k = true → x.alerts[k] = e.apu.alerts[k])
    (ha : ∀ k : Fin 23, isEventAlert k = false → x.alerts[k].ack = true → e.apu.alerts[k].ack = true) : Ev.Quiet e (e.setApu x) :=
  ⟨⟨⟨⟨rfl, .inl rfl, rfl, h, rfl, rfl, rfl, rfl, rfl, rfl, fun k hk hf => by rw [← hf]; exact congrArg _ (he k hk), ha⟩, rfl, rfl,
      List.prefix_rfl, fun k hk _ => he k hk⟩,
    ⟨hc, rfl, rfl, rfl, fun _ => rfl, rfl⟩, rfl, he⟩, ⟨rfl, rfl, rfl⟩, rfl, rfl⟩

theorem Ev.Quiet.setAsv (x : Asv) (h : x.core = e.asv.core) (hv : valveFollows e.clock e.asv.valveOp x.valveOp) :
    Ev.Quiet e (e.setAsv x) :=
  ⟨⟨⟨⟨h, hv, rfl, rfl, rfl, rfl, rfl, rfl, rfl, rfl, fun _ _ h => h, fun _ _ h => h⟩, rfl, rfl, List.prefix_rfl, fun _ _ _ => rfl⟩,
    ⟨rfl, rfl, rfl, rfl, fun _ => rfl, rfl⟩, rfl, fun _ _ => rfl⟩, ⟨rfl, rfl, rfl⟩, rfl, rfl⟩

theorem Ev.Quiet.notice (x : Notice) : Ev.Quiet e (e.notice x) :=
  ⟨⟨⟨⟨rfl, .inl rfl, rfl, rfl, rfl, rfl, rfl, rfl, rfl, rfl, fun _ _ h => h, fun _ _ h => h⟩, rfl, rfl, List.prefix_rfl, fun _ _ _ => rfl⟩,
    ⟨rfl, rfl, rfl, rfl, fun _ => rfl, rfl⟩, rfl, fun _ _ => rfl⟩, ⟨rfl, rfl, rfl⟩, rfl, rfl⟩

theorem Ev.Steady.setWcu (x : Wcu) (ha : x.trainA = e.wcu.trainA) : Ev.Steady e (e.setWcu x) :=
  ⟨⟨⟨rfl, .inl rfl, rfl, rfl, rfl, rfl, rfl, rfl, rfl, rfl, fun _ _ h => h, fun _ _ h => h⟩, rfl, rfl, List.prefix_rfl, fun _ _ _ => rfl⟩,
    ⟨rfl, rfl, rfl, rfl, fun _ => rfl, ha⟩, rfl, fun _ _ => rfl⟩

theorem Ev.Steady.setLru (x : Lru) (h : x.core = e.lru.core) : Ev.Steady e (e.setLru x) :=
  ⟨⟨⟨rfl, .inl rfl, congrArg Lru.rearPart h, rfl, rfl, rfl, rfl, rfl, rfl, rfl, fun _ _ h => h, fun _ _ h => h⟩, rfl, h, List.prefix_rfl, fun _ _ _ => rfl⟩,
    ⟨rfl, rfl, rfl, rfl, fun _ => rfl, rfl⟩, rfl, fun _ _ => rfl⟩

theorem Ev.Steady.answer (x : Answer) : Ev.Steady e (e.answer x) :=
  ⟨⟨⟨rfl, .inl rfl, rfl, rfl, rfl, rfl, rfl, rfl, rfl, rfl, fun _ _ h => h, fun _ _ h => h⟩, rfl, rfl, List.prefix_append _ _, fun _ _ _ => rfl⟩,
    ⟨rfl, rfl, rfl, rfl, fun _ => rfl, rfl⟩, rfl, fun _ _ => rfl⟩

theorem Ev.Steady.result (t : Tag) (r : Result) : Ev.Steady e (e.result t r) := .answer _ _

theorem Ev.Keeps.setLap (x : Lap) : Ev.Keeps e (e.setLap x) :=
  ⟨⟨rfl, .inl rfl, rfl, rfl, rfl, rfl, rfl, rfl, rfl, rfl, fun _ _ h => h, fun _ _ h => h⟩, rfl, rfl, List.prefix_rfl, fun _ _ _ => rfl⟩

theorem Ev.Keeps.setWcu (x : Wcu) : Ev.Keeps e (e.setWcu x) :=
  ⟨⟨rfl, .inl rfl, rfl, rfl, rfl, rfl, rfl, rfl, rfl, rfl, fun _ _ h => h, fun _ _ h => h⟩, rfl, rfl, List.prefix_rfl, fun _ _ _ => rfl⟩

theorem Ev.Keeps.setRou (x : Rou) : Ev.Keeps e (e.setRou x) :=
  ⟨⟨rfl, .inl rfl, rfl, rfl, rfl, rfl, rfl, rfl, rfl, rfl, fun _ _ h => h, fun _ _ h => h⟩, rfl, rfl, List.prefix_rfl, fun _ _ _ => rfl⟩

theorem Ev.Keeps.setTbu (x : Tbu) : Ev.Keeps e (e.setTbu x) :=
  ⟨⟨rfl, .inl rfl, rfl, rfl, rfl, rfl, rfl, rfl, rfl, rfl, fun _ _ h => h, fun _ _ h => h⟩, rfl, rfl, List.prefix_rfl, fun _ _ _ => rfl⟩

theorem Ev.Keeps.setTwu (x : Twu) (hf : x.foreign = e.twu.foreign) (hr : x.repeats = e.twu.repeats)
    (hi : x.invalid = e.twu.invalid) : Ev.Keeps e (e.setTwu x) :=
  ⟨⟨rfl, .inl rfl, rfl, rfl, rfl, hf, hr, hi, rfl, rfl, fun _ _ h => h, fun _ _ h => h⟩, rfl, rfl, List.prefix_rfl, fun _ _ _ => rfl⟩

theorem Ev.Keeps.setRst (x : Rst) (h : x.core = e.rst.core) : Ev.Keeps e (e.setRst x) :=
  ⟨⟨rfl, .inl rfl, rfl, rfl, h, rfl, rfl, rfl, rfl, rfl, fun _ _ h => h, fun _ _ h => h⟩, rfl, rfl, List.prefix_rfl, fun _ _ _ => rfl⟩

theorem Ev.Keeps.setApu (x : Apu) (h : x.core = e.apu.core)
    (he : ∀ k : Fin 23, isEventAlert k = true → e.apu.alerts[k].flag = true → x.alerts[k].flag = true)
    (ha : ∀ k : Fin 23, isEventAlert k = false → x.alerts[k].ack = true → e.apu.alerts[k].ack = true)
    (ho : ∀ k : Fin 23, isEventAlert k = true → k ≠ AlertKind.tableInsertFailed.index → x.alerts[k] = e.apu.alerts[k]) :
    Ev.Keeps e (e.setApu x) :=
  ⟨⟨rfl, .inl rfl, rfl, h, rfl, rfl, rfl, rfl, rfl, rfl, he, ha⟩, rfl, rfl, List.prefix_rfl, ho⟩

/-! ## Alerts and the record queue -/

theorem Ev.Quiet.reformLamp : Ev.Quiet e e.reformLamp := .setApu _ _ rfl rfl (fun _ _ => rfl) fun _ _ h => h

theorem Ev.Quiet.noticeOf (k : Fin 23) (b : Bool) : Ev.Quiet e (e.noticeOf k b) := by
  unfold Ev.noticeOf; split
  · exact .notice _ _
  · exact .refl _

/-- One alert record changed: the others are as before. -/
theorem alert_after_set (v : Vector AlertRecord 23) (k : Fin 23) (r : AlertRecord) (j : Fin 23) :
    (v.set k r)[j] = if j = k then r else v[j] := by
  by_cases e : k = j
  · subst e; simp
  · have h : k.val ≠ j.val := fun x => e (Fin.ext x)
    rw [if_neg fun x => e x.symm]
    simp [h]

/-- A condition alert's record changed, its acknowledged mark cleared. -/
theorem Ev.Quiet.setAlert (k : Fin 23) (b : Bool) (h : isEventAlert k = false) :
    Ev.Quiet e (e.setApu { e.apu with alerts := e.apu.alerts.set k { flag := b, ack := false } }) := by
  refine .setApu _ _ rfl rfl (fun j hj => ?_) fun j hj ha => ?_
  · rw [alert_after_set, if_neg]
    rintro rfl; rw [h] at hj; cases hj
  · rw [alert_after_set] at ha
    split at ha
    · cases ha
    · exact ha

theorem Ev.Quiet.raiseAlert (k : Fin 23) (h : isEventAlert k = false) : Ev.Quiet e (e.raiseAlert k) := by
  unfold Ev.raiseAlert; split
  · exact .refl _
  · exact ((Ev.Quiet.setAlert e k true h).trans (.noticeOf _ _ _)).trans (.reformLamp _)

theorem Ev.Quiet.clearAlert (k : Fin 23) (h : isEventAlert k = false) : Ev.Quiet e (e.clearAlert k) := by
  unfold Ev.clearAlert; split
  · exact ((Ev.Quiet.setAlert e k false h).trans (.noticeOf _ _ _)).trans (.reformLamp _)
  · exact .refl _

/-- R154: the one event alert of an insertion. -/
theorem Ev.Keeps.occurFailed : Ev.Keeps e (e.occur .tableInsertFailed) := by
  have hs : Ev.Keeps e
      (e.setApu { e.apu with alerts := e.apu.alerts.set AlertKind.tableInsertFailed.index { flag := true, ack := false } }) := by
    refine .setApu _ _ rfl (fun j _ hf => ?_) (fun j _ ha => ?_) fun j _ hn => ?_
    · rw [alert_after_set]; split
      · rfl
      · exact hf
    · rw [alert_after_set] at ha
      split at ha
      · cases ha
      · exact ha
    · rw [alert_after_set, if_neg hn]
  unfold Ev.occur Ev.raiseAlert; split
  · exact .refl _
  · exact (hs.trans (Ev.Quiet.noticeOf _ _ _).toKeeps).trans (Ev.Quiet.reformLamp _).toKeeps

theorem Ev.occur_tbu (k : AlertKind) : (e.occur k).tbu = e.tbu := by
  unfold Ev.occur Ev.raiseAlert Ev.noticeOf
  repeat' split
  all_goals rfl

theorem Ev.Quiet.handCondition (k : AlertKind) (b : Bool) (h : isEventAlert k.index = false) : Ev.Quiet e (e.handCondition k b) := by
  unfold Ev.handCondition; split
  · exact .raiseAlert _ _ h
  · exact .clearAlert _ _ h

/-- The conditions handed on are those of condition alerts. -/
theorem State.conditions_kind (s : State) : ∀ c ∈ s.conditions, isEventAlert c.1.index = false := by
  intro c hc
  simp only [State.conditions, List.mem_cons, List.not_mem_nil, or_false] at hc
  rcases hc with rfl | rfl | rfl | rfl | rfl | rfl | rfl | rfl | rfl | rfl | rfl | rfl | rfl | rfl | rfl | rfl | rfl | rfl <;> rfl

theorem Ev.Quiet.handList (l : List (AlertKind × Bool)) (h : ∀ c ∈ l, isEventAlert c.1.index = false) (e : Ev) :
    Ev.Quiet e (l.foldl (fun acc c => acc.handCondition c.1 c.2) e) := by
  induction l generalizing e with
  | nil => exact .refl e
  | cons c l ih =>
    exact (Ev.Quiet.handCondition e c.1 c.2 (h c List.mem_cons_self)).trans (ih (fun x hx => h x (List.mem_cons_of_mem _ hx)) _)

theorem Ev.Quiet.handConditions : Ev.Quiet e e.handConditions := Ev.Quiet.handList _ e.conditions_kind e

theorem Ev.Keeps.queueRecord (r : Record) : Ev.Keeps e (e.queueRecord r) := .setRst _ _ rfl

/-- The write of what waits begins: the store alone changes. -/
theorem Ev.beginWrite_eq : e.beginWrite = e.setRst e.rst.begun := by
  obtain ⟨⟨_, _, _, _, _, _, _, _, ⟨_, _, q, w, x, _, _, r⟩, _, _⟩, _, _, _⟩ := e
  rcases q with _ | _ <;> rcases w with _ | _ <;> rcases x with _ | _ <;> rcases r with _ | _ <;> rfl

theorem Rst.begun_core (x : Rst) : x.begun.core = x.core := by unfold Rst.begun; split <;> rfl

/-! ## Wheel-end channels -/

theorem Ev.Quiet.setChannel (c : Fin 6) (f : Channel → Channel) : Ev.Quiet e (e.setChannel c f) := .setWcu _ _ rfl rfl rfl
theorem Ev.Quiet.setChannels (f : Fin 6 → Channel → Channel) : Ev.Quiet e (e.setChannels f) := .setWcu _ _ rfl rfl rfl
theorem Ev.Quiet.formSpeed : Ev.Quiet e e.formSpeed := .setWcu _ _ rfl rfl rfl
theorem Ev.Quiet.maskChannel (c : Fin 6) (m : MaskCause) : Ev.Quiet e (e.maskChannel c m) := .setChannel _ _ _

theorem Ev.Quiet.followSuspension : Ev.Quiet e e.followSuspension := by
  unfold Ev.followSuspension; split
  · split
    · exact .refl _
    · exact (Ev.Quiet.setWcu _ _ (by rfl) (by rfl) (by rfl)).trans (.setChannels _ _)
  · split
    · exact (Ev.Quiet.setWcu _ _ (by rfl) (by rfl) (by rfl)).trans (.setChannels _ _)
    · exact .refl _

theorem Ev.Quiet.formContributions : Ev.Quiet e e.formContributions := .setWcu _ _ rfl rfl rfl
theorem Ev.Quiet.formFinals : Ev.Quiet e e.formFinals := .setWcu _ _ rfl rfl rfl
theorem Ev.Quiet.formCommands : Ev.Quiet e e.formCommands := .setChannels _ _
theorem Ev.Quiet.formCaps : Ev.Quiet e e.formCaps := .setWcu _ _ rfl rfl rfl
theorem Ev.Quiet.formApportioned : Ev.Quiet e e.formApportioned := .setWcu _ _ rfl rfl rfl

theorem Ev.Quiet.formTargets : Ev.Quiet e e.formTargets :=
  .setLap _ _ (fun a => by simp [LoadRecord.apportion, LoadRecord.core])

theorem Ev.Quiet.setActivity : Ev.Quiet e e.setActivity := .setLap _ _ (fun _ => rfl)

theorem Ev.Quiet.sendChannel (c : Fin 6) : Ev.Quiet e (e.sendChannel c) := by
  unfold Ev.sendChannel
  exact Ev.Quiet.ite (((Ev.Quiet.setWcu _ _ (by rfl) (by rfl) (by rfl)).trans (.setChannel _ _ _)).trans (.maskChannel _ _ _))
    ((Ev.Quiet.setWcu _ _ (by rfl) (by rfl) (by rfl)).trans (.setChannel _ _ _))

theorem Ev.Quiet.sendValve (k : ValveKind) : Ev.Quiet e (e.sendValve k) := by
  unfold Ev.sendValve; dsimp only
  split
  · next op h =>
    split
    · next hp =>
      exact (Ev.Quiet.setWcu _ _ (by rfl) (by rfl) (by rfl)).trans (.setAsv _ _ (by rfl) (.inr ⟨op, h, hp, rfl⟩))
    · exact .setWcu _ _ rfl rfl rfl
  · exact .setWcu _ _ rfl rfl rfl

theorem Ev.Quiet.pumpChassis : Ev.Quiet e e.pumpChassis := by
  unfold Ev.pumpChassis; split
  · exact .refl _
  · split
    · exact .sendValve _ _
    · split
      · exact (Ev.Quiet.setWcu _ _ (by rfl) (by rfl) (by rfl)).trans (.sendChannel _ _)
      · exact .refl _

/-! ## Supervisor, apportioner, rollover unit and tyre watch -/

theorem Ev.Quiet.followAutoPark : Ev.Quiet e e.followAutoPark := by
  unfold Ev.followAutoPark; split
  · split
    · exact .refl _
    · exact .setAsv _ _ rfl (.inl rfl)
  · exact .setAsv _ _ rfl (.inl rfl)

theorem Ev.Quiet.testHold : Ev.Quiet e e.testHold := by
  unfold Ev.testHold; split
  · exact .setRou _ _ rfl
  · split
    · exact .refl _
    · exact .setRou _ _ rfl

theorem Ev.Quiet.formThresholds : Ev.Quiet e e.formThresholds := by
  unfold Ev.formThresholds; dsimp only
  split
  · exact (Ev.Quiet.setRou e _ (by rfl)).trans (.testHold _)
  · exact .setRou _ _ rfl

theorem Ev.Quiet.formTotal : Ev.Quiet e e.formTotal := by
  unfold Ev.formTotal; dsimp only
  split
  · exact .refl _
  · exact (Ev.Quiet.setLap e _ (by intro a; rfl)).trans (.formThresholds _)

theorem Ev.Quiet.formDeflated : Ev.Quiet e e.formDeflated := by
  unfold Ev.formDeflated; dsimp only
  split
  · exact .setDeflated _ _
  · exact ((Ev.Quiet.setDeflated e _).trans (.setRou _ _ (by rfl))).trans (.formThresholds _)

/-! ## The service actuation -/

theorem Ev.Steady.armTrainB : Ev.Steady e (e.armTrain .b) := .setWcu _ _ rfl

theorem Ev.Steady.startTrainB (t : Vector Bool 6) (p c l : Nat) (r : Bool) : Ev.Steady e (e.startTrain .b t p c l r) := by
  unfold Ev.startTrain; split
  · exact .setWcu _ _ rfl
  · exact .refl _

theorem Ev.Steady.startService (t : Tag) (a : ServiceArgs) : Ev.Steady e (e.startService t a) := by
  unfold Ev.startService
  exact ((Ev.Steady.armTrainB _).trans (.startTrainB _ _ _ _ _ _)).trans (.setWcu _ _ (by rfl))

theorem Ev.Steady.abortService (t : Tag) (r : Result) : Ev.Steady e (e.abortService t r) :=
  ((Ev.Steady.setWcu e _ (by rfl)).trans (.setWcu _ _ (by rfl))).trans (.result _ _ _)

theorem Ev.Steady.followService : Ev.Steady e e.followService := by
  unfold Ev.followService; split
  · exact .refl _
  · split
    · exact (Ev.Steady.setLru _ _ (by rfl)).trans (.startService _ _ _)
    · exact .refl _
  · split
    · exact .abortService _ _ _
    · split
      · exact .abortService _ _ _
      · exact .refl _

theorem Ev.Quiet.followService (h : e.wcu.service = .none) : Ev.Quiet e e.followService := by
  unfold Ev.followService; rw [h]; exact .refl _

theorem Ev.Quiet.formPressures : Ev.Quiet e e.formPressures := by
  unfold Ev.formPressures
  exact (((((Ev.Quiet.formCaps e).trans (.formTargets _)).trans (.formApportioned _)).trans (.formContributions _)).trans
    (.formFinals _)).trans (.formCommands _)

theorem Ev.Quiet.formDerived : Ev.Quiet e e.followAutoPark.formTotal.formDeflated :=
  ((Ev.Quiet.followAutoPark e).trans (.formTotal _)).trans (.formDeflated _)

theorem Ev.Steady.reform : Ev.Steady e e.reform := by
  unfold Ev.reform Ev.formStates
  exact ((((Ev.Quiet.followSuspension e).trans (.formSpeed _)).toSteady.trans (.followService _)).trans
    (Ev.Quiet.formDerived _).toSteady).trans (Ev.Quiet.formPressures _).toSteady

theorem Ev.Quiet.reform (h : e.wcu.service = .none) : Ev.Quiet e e.reform := by
  have h1 : Ev.Quiet e e.followSuspension.formSpeed := (Ev.Quiet.followSuspension e).trans (.formSpeed _)
  unfold Ev.reform Ev.formStates
  exact ((h1.trans (.followService _ (h1.rests.service.trans h))).trans (.formDerived _)).trans (.formPressures _)

/-! ## Insertion -/

theorem Ev.Keeps.closeLearn (r : Result) (x : Reason) : Ev.Keeps e (e.closeLearn r x) := by
  unfold Ev.closeLearn; split
  · exact (Ev.Keeps.setTwu e _ (by rfl) (by rfl) (by rfl)).trans (Ev.Steady.answer _ _).toKeeps
  · exact .refl _

theorem Ev.Keeps.closeHalf (r : Result) : Ev.Keeps e (e.closeHalf r) := by
  unfold Ev.closeHalf; split
  · exact (Ev.Keeps.setTwu e _ (by rfl) (by rfl) (by rfl)).trans (Ev.Steady.result _ _ _).toKeeps
  · exact .refl _

theorem Ev.Keeps.testWindows : Ev.Keeps e e.testWindows := by
  have h (a : Ev) : Ev.Keeps a (match a.twu.half with
      | some h => if a.validBinding h.binding then a else a.closeHalf .cancelled
      | none => a) := by
    split
    · split
      · exact .refl _
      · exact .closeHalf _ _
    · exact .refl _
  unfold Ev.testWindows
  split
  · split
    · exact h _
    · exact (Ev.Keeps.closeLearn _ _ _).trans (h _)
  · exact h _

theorem Ev.Keeps.insertRollover (b : Bool) : Ev.Keeps e (e.insertRollover b) := by
  unfold Ev.insertRollover; split
  · exact .setRou _ _
  · exact .setRou _ _
  · exact .refl _

theorem Ev.Keeps.insertAxles (t : Tables) : Ev.Keeps e (e.insertAxles t) := .setLap _ _
theorem Ev.Keeps.insertReadings (t : Vector AxleEntry 4) : Ev.Keeps e (e.insertReadings t) := .setTwu _ _ rfl rfl rfl
theorem Ev.Keeps.insertChannels (t : ChannelTable) : Ev.Keeps e (e.insertChannels t) := .setWcu _ _
theorem Ev.Keeps.formConfigured : Ev.Keeps e e.formConfigured :=
  .setApu _ _ rfl (fun _ _ h => h) (fun _ _ h => h) fun _ _ _ => rfl

theorem Ev.Quiet.insertLoads : Ev.Quiet e e.insertLoads := by
  have h := (((Ev.Quiet.formCaps e).trans (.formTargets _)).trans (.formApportioned _)).trans (.formTotal _)
  unfold Ev.insertLoads; dsimp only
  generalize e.formCaps.formTargets.formApportioned.formTotal = a at h ⊢
  exact (h.trans (.handCondition a .overload _ rfl)).trans (.handCondition _ .loadSensorStale _ rfl)

theorem Ev.Keeps.handInsertion (t : Tables) : Ev.Keeps e (e.handInsertion t) := by
  have h1 : Ev.Keeps e ((((e.insertAxles t).insertReadings t.axle).testWindows).insertChannels t.channel) :=
    (((Ev.Keeps.insertAxles e t).trans (.insertReadings _ _)).trans (.testWindows _)).trans (.insertChannels _ _)
  unfold Ev.handInsertion
  generalize (((e.insertAxles t).insertReadings t.axle).testWindows).insertChannels t.channel = a at h1 ⊢
  dsimp only
  have h2 := h1.trans ((((Ev.Quiet.insertLoads a).trans (.formDeflated _)).trans (.formThresholds _)).toKeeps)
  generalize a.insertLoads.formDeflated.formThresholds = b at h2 ⊢
  have h3 := (h2.trans (.insertRollover _ t.roll.enabled)).trans (Ev.Steady.reform _).toKeeps
  generalize (b.insertRollover t.roll.enabled).reform = d at h3 ⊢
  exact ((h3.trans (Ev.Quiet.setActivity _).toKeeps).trans (.formConfigured _)).trans (Ev.Quiet.reformLamp _).toKeeps

theorem Ev.Keeps.failInsertion (t : Tag) (r : Reason) (a b : Nat) : Ev.Keeps e (e.failInsertion t r a b) :=
  (Ev.Keeps.occurFailed e).trans (Ev.Steady.answer _ _).toKeeps

theorem Ev.Keeps.moveTables : Ev.Keeps e e.moveTables := by
  unfold Ev.moveTables
  exact (Ev.Keeps.foldl (fun acc id => Ev.queueRecord acc (tableRecord e.tbu.shadow id)) (fun _ _ => .queueRecord _ _) _ e).trans
    (.setTbu _ _)

theorem Ev.Keeps.carryOut : Ev.Keeps e e.carryOut := (Ev.Keeps.moveTables e).trans (.handInsertion _ _)

theorem Ev.Keeps.performInsertion (t : Tag) : Ev.Keeps e (e.performInsertion t) := by
  unfold Ev.performInsertion; split
  · exact .failInsertion _ _ _ _ _
  · exact (Ev.Keeps.carryOut e).trans (Ev.Steady.result _ _ _).toKeeps

theorem Ev.Keeps.brakeRelease : Ev.Keeps e e.brakeRelease := by
  unfold Ev.brakeRelease; split
  · exact (((Ev.Quiet.handConditions e).toKeeps.trans (.setTbu _ _)).trans (Ev.Steady.setLru _ _ (by rfl)).toKeeps).trans
      (.performInsertion _ _)
  · exact .refl _

/-! ## The held insert -/

theorem Ev.testWindows_tbu : e.testWindows.tbu = e.tbu := by
  unfold Ev.testWindows Ev.closeLearn Ev.closeHalf; dsimp only
  repeat' split
  all_goals rfl

theorem Ev.insertRollover_tbu (b : Bool) : (e.insertRollover b).tbu = e.tbu := by
  unfold Ev.insertRollover; split <;> rfl

theorem Ev.handInsertion_tbu (t : Tables) : (e.handInsertion t).tbu = e.tbu := by
  have h1 : ((((e.insertAxles t).insertReadings t.axle).testWindows).insertChannels t.channel).tbu = e.tbu :=
    show (((e.insertAxles t).insertReadings t.axle).testWindows).tbu = _ from Ev.testWindows_tbu _
  unfold Ev.handInsertion
  generalize (((e.insertAxles t).insertReadings t.axle).testWindows).insertChannels t.channel = a at h1 ⊢
  dsimp only
  have h2 := ((Ev.Quiet.insertLoads a).trans (.formDeflated _)).trans (.formThresholds _)
  generalize a.insertLoads.formDeflated.formThresholds = b at h2 ⊢
  have h3 := (Ev.Steady.reform (b.insertRollover t.roll.enabled)).stays.tbu
  rw [Ev.insertRollover_tbu, h2.stays.tbu, h1] at h3
  generalize (b.insertRollover t.roll.enabled).reform = d at h3 ⊢
  exact h3

theorem Ev.moveTables_held : e.moveTables.tbu.heldInsert = e.tbu.heldInsert := by
  have (l : List TableId) (t : Tables) (a : Ev) : (l.foldl (fun acc id => Ev.queueRecord acc (tableRecord t id)) a).tbu = a.tbu := by
    induction l generalizing a with
    | nil => rfl
    | cons i l ih => rw [List.foldl_cons, ih]; rfl
  unfold Ev.moveTables
  have h := congrArg Tbu.heldInsert (this (differing e.tbu.active e.tbu.shadow) e.tbu.shadow e)
  exact h

theorem Ev.carryOut_held : e.carryOut.tbu.heldInsert = e.tbu.heldInsert := by
  rw [Ev.carryOut, Ev.handInsertion_tbu, Ev.moveTables_held]

/-- An insertion holds none and releases none. -/
theorem Ev.performInsertion_held (t : Tag) : (e.performInsertion t).tbu.heldInsert = e.tbu.heldInsert := by
  have hf (r : Reason) (a b : Nat) : (e.failInsertion t r a b).tbu.heldInsert = e.tbu.heldInsert := by
    show (e.occur .tableInsertFailed).tbu.heldInsert = _
    rw [Ev.occur_tbu]
  unfold Ev.performInsertion; split
  · exact hf _ _ _
  · exact e.carryOut_held

theorem Ev.brakeRelease_held : e.brakeRelease.tbu.heldInsert = none := by
  unfold Ev.brakeRelease; split
  · rw [Ev.performInsertion_held]; rfl
  · assumption

theorem Ev.brakeRelease_none (h : e.tbu.heldInsert = none) : e.brakeRelease = e := by
  unfold Ev.brakeRelease; rw [h]

/-! ## The closing work -/

theorem Ev.Keeps.settle : Ev.Keeps e e.settle := by
  unfold Ev.settle; dsimp only
  split
  · exact ((Ev.Steady.reform e).toKeeps.trans (Ev.Quiet.setActivity _).toKeeps).trans (.brakeRelease _)
  · exact (Ev.Steady.reform e).toKeeps.trans (Ev.Quiet.setActivity _).toKeeps

/-- Everything that an event re-forms, and the brake activity flag. -/
def Ev.formed : Ev := e.reform.setActivity

theorem Ev.Steady.formed : Ev.Steady e e.formed := (Ev.Steady.reform e).trans (Ev.Quiet.setActivity _).toSteady

theorem Ev.Quiet.formed (h : e.wcu.service = .none) : Ev.Quiet e e.formed := (Ev.Quiet.reform e h).trans (.setActivity _)

/-- Settling only re-forms, or it leaves no insert held. -/
theorem Ev.settle_cases : e.settle = e.formed ∨ e.settle.tbu.heldInsert = none := by
  unfold Ev.settle Ev.formed; dsimp only
  split
  · exact .inr (Ev.brakeRelease_held _)
  · exact .inl rfl

/-- With no insert held, settling only re-forms. -/
theorem Ev.settle_of_none (h : e.tbu.heldInsert = none) : e.settle = e.formed := by
  unfold Ev.settle Ev.formed; dsimp only
  split
  · exact Ev.brakeRelease_none _ (by rw [((Ev.Steady.reform e).trans (Ev.Quiet.setActivity _).toSteady).stays.tbu]; exact h)
  · rfl

/-- No held insert is performed: none is held, or the one that is stays held. -/
def Ev.Kept (a b : Ev) : Prop := a.tbu.heldInsert = none ∨ b.tbu.heldInsert = a.tbu.heldInsert

theorem Ev.settle_of_kept (h : Ev.Kept e e.settle) : e.settle = e.formed := by
  rcases h with h | h
  · exact Ev.settle_of_none e h
  · rcases Ev.settle_cases e with g | g
    · exact g
    · exact Ev.settle_of_none e (h.symm.trans g)

/-- Settling, the conditions, the chassis bus and settling again: the closing work but for the store and the conditions handed on last. -/
def Ev.settled : Ev := e.settle.handConditions.pumpChassis.settle

/-- The handing on of the conditions and the chassis bus transmitter. -/
theorem Ev.Quiet.handPump : Ev.Quiet e e.handConditions.pumpChassis := (Ev.Quiet.handConditions e).trans (.pumpChassis _)

/-- Everything that an event re-forms, with the conditions handed on as they then hold. -/
def Ev.announced : Ev := e.formed.handConditions

theorem Ev.Steady.announced : Ev.Steady e e.announced := (Ev.Steady.formed e).trans (Ev.Quiet.handConditions _).toSteady

/-- What is held after the closing work was held all along. -/
theorem Ev.settled_of_kept (h : Ev.Kept e e.settled) : e.settled = e.announced.pumpChassis.formed := by
  have hp := (Ev.Quiet.handPump e.settle).stays.tbu
  have h1 : Ev.Kept e e.settle := by
    rcases h with h | h
    · exact .inl h
    · rcases Ev.settle_cases e with g | g
      · exact .inr (by rw [g, (Ev.Steady.formed e).stays.tbu])
      · have hn : e.settle.handConditions.pumpChassis.tbu.heldInsert = none := by rw [hp]; exact g
        refine .inl (h.symm.trans ?_)
        unfold Ev.settled
        rw [Ev.settle_of_none _ hn, (Ev.Steady.formed _).stays.tbu, hn]
  have hs := Ev.settle_of_kept e h1
  unfold Ev.settled at h ⊢
  unfold Ev.announced
  rw [hs] at h hp ⊢
  have hf := (Ev.Steady.formed e).stays.tbu
  refine Ev.settle_of_kept _ ?_
  rcases h with h | h
  · exact .inl (by rw [hp, hf]; exact h)
  · exact .inr (by rw [h, hp, hf])

/-- The closing work but for the alert records: the write of what waits has begun. -/
theorem Ev.react_eq : e.react = (e.settled.setRst e.settled.rst.begun).handConditions := by
  unfold Ev.react Ev.record Ev.settled
  rw [Ev.beginWrite_eq]

theorem Ev.react_tbu : e.react.tbu = e.settled.tbu := by
  rw [Ev.react_eq, (Ev.Quiet.handConditions _).stays.tbu, Ev.setRst_tbu]

theorem Ev.Keeps.settled : Ev.Keeps e e.settled :=
  ((Ev.Keeps.settle e).trans (Ev.Quiet.handPump _).toKeeps).trans (.settle _)

theorem Ev.Steady.settled (h : Ev.Kept e e.settled) : Ev.Steady e e.settled := by
  rw [Ev.settled_of_kept e h]
  exact ((Ev.Steady.formed e).trans (Ev.Quiet.handPump _).toSteady).trans (.formed _)

theorem Ev.Quiet.settled (h : e.tbu.heldInsert = none) (hs : e.wcu.service = .none) : Ev.Quiet e e.settled := by
  have h1 := (Ev.Quiet.formed e hs).trans (.handPump _)
  rw [Ev.settled_of_kept e (.inl h)]
  exact h1.trans (.formed _ (h1.rests.service.trans hs))

/-- What the closing work of an event leaves in every case. -/
theorem Ev.Keeps.react : Ev.Keeps e e.react := by
  rw [Ev.react_eq]
  exact ((Ev.Keeps.settled e).trans (.setRst _ _ (Rst.begun_core _))).trans (Ev.Quiet.handConditions _).toKeeps

theorem Ev.stays_setRst (x : Rst) : e.toState.Stays (e.setRst x).toState := ⟨rfl, rfl, rfl, rfl, fun _ => rfl, rfl⟩
theorem Ev.rests_setRst (x : Rst) : e.toState.Rests (e.setRst x).toState := ⟨rfl, rfl, rfl⟩

/-- What it leaves when no held insert is performed. -/
theorem Ev.react_stays (h : Ev.Kept e e.settled) : e.toState.Stays e.react.toState := by
  rw [Ev.react_eq]
  exact ((Ev.Steady.settled e h).stays.trans (Ev.stays_setRst _ _)).trans (Ev.Quiet.handConditions _).stays

/-- With no held insert performed, it begins the write of what waits and leaves the store otherwise. -/
theorem Ev.react_rst (h : Ev.Kept e e.settled) : e.react.rst = e.rst.begun := by
  rw [Ev.react_eq, (Ev.Quiet.handConditions _).rst, Ev.setRst_rst, (Ev.Steady.settled e h).rst]

/-- What it leaves when moreover no service actuation is held or runs. -/
theorem Ev.react_rests (h : e.tbu.heldInsert = none) (hs : e.wcu.service = .none) :
    e.toState.Rests e.react.toState ∧ e.react.lru = e.lru ∧ e.react.answers = e.answers := by
  rw [Ev.react_eq]
  have h1 := Ev.Quiet.settled e h hs
  generalize e.settled = a at h1 ⊢
  have h2 := Ev.Quiet.handConditions (a.setRst a.rst.begun)
  generalize (a.setRst a.rst.begun).handConditions = b at h2 ⊢
  exact ⟨(h1.rests.trans (Ev.rests_setRst _ _)).trans h2.rests, h2.sameLru.trans h1.sameLru, h2.sameAnswers.trans h1.sameAnswers⟩

/-! ## The chassis bus transmitter -/

/-- R57, R58: what the chassis bus transmitter sends, the valve command that waits for it and the ranking of the channels. -/
def Wcu.bus (x : Wcu) : Option CanFrame × Option ValveKind × List (Fin 6) := (x.tx, x.pendingValve, x.ranking)

theorem Ev.handList_wcu (l : List (AlertKind × Bool)) (e : Ev) :
    (l.foldl (fun acc c => acc.handCondition c.1 c.2) e).wcu = e.wcu := by
  induction l generalizing e with
  | nil => rfl
  | cons c l ih =>
    rw [List.foldl_cons, ih]
    unfold Ev.handCondition Ev.raiseAlert Ev.clearAlert Ev.noticeOf
    repeat' split
    all_goals rfl

theorem Ev.handConditions_wcu : e.handConditions.wcu = e.wcu := Ev.handList_wcu _ e

theorem Ev.occur_wcu (k : AlertKind) : (e.occur k).wcu = e.wcu := by
  unfold Ev.occur Ev.raiseAlert Ev.noticeOf
  repeat' split
  all_goals rfl

theorem Ev.followSuspension_bus : e.followSuspension.wcu.bus = e.wcu.bus := by
  unfold Ev.followSuspension; repeat' split
  all_goals rfl

theorem Ev.startService_bus (t : Tag) (a : ServiceArgs) : (e.startService t a).wcu.bus = e.wcu.bus := by
  unfold Ev.startService Ev.startTrain; dsimp only; split <;> rfl

theorem Ev.followService_bus : e.followService.wcu.bus = e.wcu.bus := by
  unfold Ev.followService; split
  · rfl
  · split
    · rw [Ev.startService_bus]; rfl
    · rfl
  · split
    · rfl
    · split <;> rfl

theorem Ev.followAutoPark_wcu : e.followAutoPark.wcu = e.wcu := by
  unfold Ev.followAutoPark; repeat' split
  all_goals rfl

theorem Ev.testHold_wcu : e.testHold.wcu = e.wcu := by
  unfold Ev.testHold; repeat' split
  all_goals rfl

theorem Ev.formThresholds_wcu : e.formThresholds.wcu = e.wcu := by
  unfold Ev.formThresholds; dsimp only; split
  · rw [Ev.testHold_wcu]; rfl
  · rfl

theorem Ev.formTotal_wcu : e.formTotal.wcu = e.wcu := by
  unfold Ev.formTotal; dsimp only; split
  · rfl
  · rw [Ev.formThresholds_wcu]; rfl

theorem Ev.formDeflated_wcu : e.formDeflated.wcu = e.wcu := by
  unfold Ev.formDeflated; dsimp only; split
  · rfl
  · rw [Ev.formThresholds_wcu]; rfl

theorem Ev.formPressures_bus : e.formPressures.wcu.bus = e.wcu.bus := rfl

theorem Ev.reform_bus : e.reform.wcu.bus = e.wcu.bus := by
  unfold Ev.reform Ev.formStates
  rw [Ev.formPressures_bus, Ev.formDeflated_wcu, Ev.formTotal_wcu, Ev.followAutoPark_wcu, Ev.followService_bus]
  exact Ev.followSuspension_bus e

theorem Ev.testWindows_wcu : e.testWindows.wcu = e.wcu := by
  unfold Ev.testWindows Ev.closeLearn Ev.closeHalf; dsimp only
  repeat' split
  all_goals rfl

theorem Ev.insertRollover_wcu (b : Bool) : (e.insertRollover b).wcu = e.wcu := by
  unfold Ev.insertRollover; split <;> rfl

theorem Ev.reformLamp_wcu : e.reformLamp.wcu = e.wcu := rfl
theorem Ev.formConfigured_wcu : e.formConfigured.wcu = e.wcu := rfl
theorem Ev.setActivity_wcu : e.setActivity.wcu = e.wcu := rfl
theorem Ev.insertChannels_bus (t : ChannelTable) : (e.insertChannels t).wcu.bus = e.wcu.bus := rfl

theorem Ev.handCondition_wcu (k : AlertKind) (b : Bool) : (e.handCondition k b).wcu = e.wcu := by
  unfold Ev.handCondition Ev.raiseAlert Ev.clearAlert Ev.noticeOf
  repeat' split
  all_goals rfl

theorem Ev.insertLoads_bus : e.insertLoads.wcu.bus = e.wcu.bus := by
  unfold Ev.insertLoads; dsimp only
  rw [Ev.handCondition_wcu, Ev.handCondition_wcu, Ev.formTotal_wcu]
  rfl

theorem Ev.handInsertion_bus (t : Tables) : (e.handInsertion t).wcu.bus = e.wcu.bus := by
  unfold Ev.handInsertion; dsimp only
  rw [Ev.reformLamp_wcu, Ev.formConfigured_wcu, Ev.setActivity_wcu, Ev.reform_bus, Ev.insertRollover_wcu, Ev.formThresholds_wcu,
    Ev.formDeflated_wcu, Ev.insertLoads_bus, Ev.insertChannels_bus, Ev.testWindows_wcu]
  rfl

theorem Ev.moveTables_wcu : e.moveTables.wcu = e.wcu := by
  have (l : List TableId) (t : Tables) (a : Ev) : (l.foldl (fun acc id => Ev.queueRecord acc (tableRecord t id)) a).wcu = a.wcu := by
    induction l generalizing a with
    | nil => rfl
    | cons i l ih => rw [List.foldl_cons, ih]; rfl
  unfold Ev.moveTables
  exact this _ _ _

theorem Ev.carryOut_bus : e.carryOut.wcu.bus = e.wcu.bus := by
  rw [Ev.carryOut, Ev.handInsertion_bus, Ev.moveTables_wcu]

theorem Ev.performInsertion_bus (t : Tag) : (e.performInsertion t).wcu.bus = e.wcu.bus := by
  have hf (r : Reason) (a b : Nat) : (e.failInsertion t r a b).wcu.bus = e.wcu.bus := by
    show (e.occur .tableInsertFailed).wcu.bus = _
    rw [Ev.occur_wcu]
  unfold Ev.performInsertion; split
  · exact hf _ _ _
  · exact e.carryOut_bus

theorem Ev.brakeRelease_bus : e.brakeRelease.wcu.bus = e.wcu.bus := by
  unfold Ev.brakeRelease; split
  · rw [Ev.performInsertion_bus]
    show e.handConditions.wcu.bus = _
    rw [Ev.handConditions_wcu]
  · rfl

theorem Ev.settle_bus : e.settle.wcu.bus = e.wcu.bus := by
  unfold Ev.settle; dsimp only; split
  · rw [Ev.brakeRelease_bus, Ev.setActivity_wcu, Ev.reform_bus]
  · rw [Ev.setActivity_wcu, Ev.reform_bus]

/-- A transmitter that is busy or halted takes nothing. -/
theorem Ev.pumpChassis_halted (h : e.toState.BusHalted) : e.pumpChassis = e := by
  unfold Ev.pumpChassis
  rw [if_pos]
  rcases h with h | h | h
  · simp [h]
  · simp [h]
  · simp [h]

/-- A free one takes the valve command that waits. -/
theorem Ev.pumpChassis_valve (h : ¬e.toState.BusHalted) (k : ValveKind) (hk : e.wcu.pendingValve = some k) :
    e.pumpChassis.wcu.bus = (some (valveCommand k), none, e.wcu.ranking) := by
  have hh : ¬(e.wcu.tx.isSome || e.restoring || e.apu.power != .run) = true := by
    unfold State.BusHalted at h
    simp only [not_or] at h
    simp [h.1, h.2.1, h.2.2]
  unfold Ev.pumpChassis
  rw [if_neg hh, hk]
  show (e.sendValve k).wcu.bus = _
  unfold Ev.sendValve; dsimp only
  split
  · split <;> rfl
  · rfl

theorem Ev.pumpChassis_busy (h : e.wcu.tx.isSome = true) : e.pumpChassis = e := e.pumpChassis_halted (.inl h)

/-- Whether the transmitter is halted is what a settling leaves. -/
theorem Ev.settle_halted : e.settle.toState.BusHalted ↔ e.toState.BusHalted := by
  have hk := (Ev.Keeps.settle e).keeps
  have ht := Ev.settle_bus e
  simp only [Wcu.bus, Prod.mk.injEq] at ht
  generalize e.settle = a at hk ht ⊢
  have hp : a.apu.power = e.apu.power := by
    have : a.apu.core.power = e.apu.core.power := by rw [hk.apu]
    exact this
  have hr : a.toState.restoring = e.toState.restoring := by
    have : a.rst.core.restore = e.rst.core.restore := by rw [hk.rst]
    exact congrArg Option.isSome this
  unfold State.BusHalted
  rw [ht.1, hp, hr]

theorem Ev.handConditions_halted : e.handConditions.toState.BusHalted ↔ e.toState.BusHalted := by
  have hq := Ev.Quiet.handConditions e
  have hw := Ev.handConditions_wcu e
  generalize e.handConditions = a at hq hw ⊢
  have hp : a.apu.power = e.apu.power := show a.apu.core.power = e.apu.core.power by rw [hq.keeps.apu]
  unfold State.BusHalted State.restoring
  rw [hw, hp, hq.rst]

theorem Ev.settled_bus_halted (h : e.toState.BusHalted) : e.settled.wcu.bus = e.wcu.bus := by
  unfold Ev.settled
  rw [Ev.settle_bus, Ev.pumpChassis_halted _ ((Ev.handConditions_halted _).2 ((Ev.settle_halted e).2 h)), Ev.handConditions_wcu, Ev.settle_bus]

theorem Ev.settled_bus_valve (h : ¬e.toState.BusHalted) (k : ValveKind) (hk : e.wcu.pendingValve = some k) :
    e.settled.wcu.bus = (some (valveCommand k), none, e.wcu.ranking) := by
  have hv := Ev.settle_bus e
  have hh := (Ev.settle_halted e).1 ∘ (Ev.handConditions_halted e.settle).1
  unfold Ev.settled
  rw [Ev.settle_bus]
  rw [← Ev.handConditions_wcu] at hv
  simp only [Wcu.bus, Prod.mk.injEq] at hv
  generalize e.settle.handConditions = a at hv hh ⊢
  rw [← hv.2.2]
  exact Ev.pumpChassis_valve _ (fun x => h (hh x)) k (hv.2.1.trans hk)

theorem Ev.react_wcu : e.react.wcu = e.settled.wcu := by
  rw [Ev.react_eq, Ev.handConditions_wcu, Ev.setRst_wcu]

/-! ## The channel records -/

/-- Every channel's record is kept but for its command, and a request that is raised stays raised. -/
def Ev.KeepsChannels (e e' : Ev) : Prop :=
  ∀ c : Fin 6, e'.wcu.channels[c].core = e.wcu.channels[c].core ∧
    (e.wcu.channels[c].request = true → e'.wcu.channels[c].request = true)

theorem Ev.KeepsChannels.of_eq {a b : Ev} (h : b.wcu.channels = a.wcu.channels) : Ev.KeepsChannels a b := by
  intro c; rw [h]; exact ⟨rfl, id⟩

theorem Ev.KeepsChannels.trans {a b c : Ev} (h : Ev.KeepsChannels a b) (g : Ev.KeepsChannels b c) : Ev.KeepsChannels a c :=
  fun x => ⟨(g x).1.trans (h x).1, fun hr => (g x).2 ((h x).2 hr)⟩

theorem Ev.formPressures_channels : Ev.KeepsChannels e e.formPressures := by
  intro c
  unfold Ev.formPressures Ev.formCommands Ev.setChannels
  simp only [Ev.setWcu_wcu, Channel.core, Fin.getElem_fin, Vector.getElem_ofFn, Fin.eta]
  refine ⟨rfl, fun h => ?_⟩
  have h' : e.formCaps.formTargets.formApportioned.formContributions.formFinals.wcu.channels[c].request = true := h
  simp only [Fin.getElem_fin] at h'
  rw [h', Bool.true_or]

theorem Ev.startService_channels (t : Tag) (a : ServiceArgs) : (e.startService t a).wcu.channels = e.wcu.channels := by
  unfold Ev.startService Ev.startTrain; dsimp only; split <;> rfl

theorem Ev.followService_channels : e.followService.wcu.channels = e.wcu.channels := by
  unfold Ev.followService; split
  · rfl
  · split
    · rw [Ev.startService_channels]; rfl
    · rfl
  · split
    · rfl
    · split <;> rfl

theorem Ev.followSuspension_channels (c : Fin 6) : e.followSuspension.wcu.channels[c] = e.channelFollows c := by
  unfold Ev.followSuspension State.channelFollows Ev.setChannels
  split
  · split
    · rfl
    · simp [Channel.suspend]
  · split
    · simp
    · rfl

theorem Ev.followSuspension_suspended : e.followSuspension.wcu.suspended = e.outputSuspended := by
  unfold Ev.followSuspension Ev.setChannels
  split
  · split <;> simp_all
  · split <;> simp_all

theorem Ev.reform_channels (c : Fin 6) : e.reform.wcu.channels[c].core = (e.channelFollows c).core ∧
    ((e.channelFollows c).request = true → e.reform.wcu.channels[c].request = true) := by
  have h1 : Ev.KeepsChannels e.followSuspension e.reform := by
    unfold Ev.reform Ev.formStates
    refine Ev.KeepsChannels.trans (.of_eq ?_) (Ev.formPressures_channels _)
    rw [Ev.formDeflated_wcu, Ev.formTotal_wcu, Ev.followAutoPark_wcu, Ev.followService_channels]
    rfl
  rw [← Ev.followSuspension_channels]
  exact h1 c

theorem Ev.startService_suspended (t : Tag) (a : ServiceArgs) : (e.startService t a).wcu.suspended = e.wcu.suspended := by
  unfold Ev.startService Ev.startTrain; dsimp only; split <;> rfl

theorem Ev.followService_suspended : e.followService.wcu.suspended = e.wcu.suspended := by
  unfold Ev.followService; split
  · rfl
  · split
    · rw [Ev.startService_suspended]; rfl
    · rfl
  · split
    · rfl
    · split <;> rfl

theorem Ev.formPressures_suspended : e.formPressures.wcu.suspended = e.wcu.suspended := rfl

theorem Ev.reform_suspended : e.reform.wcu.suspended = e.outputSuspended := by
  unfold Ev.reform Ev.formStates
  rw [Ev.formPressures_suspended, Ev.formDeflated_wcu, Ev.formTotal_wcu, Ev.followAutoPark_wcu, Ev.followService_suspended]
  exact Ev.followSuspension_suspended e

/-- Whether output is to be suspended is what any operation of the closing work leaves. -/
theorem Ev.Keeps.outputSuspended {a b : Ev} (h : Ev.Keeps a b) : b.outputSuspended = a.outputSuspended := by
  have hp : b.apu.core.power = a.apu.core.power := by rw [h.keeps.apu]
  have hr : b.rst.core.restore = a.rst.core.restore := by rw [h.keeps.rst]
  have hd : b.asv.core.dEff = a.asv.core.dEff := by rw [h.keeps.asv]
  have hp' : b.apu.power = a.apu.power := hp
  have hr' : b.rst.restore = a.rst.restore := hr
  have hd' : b.asv.dEff = a.asv.dEff := hd
  unfold State.outputSuspended State.restoring
  rw [hp', hr', hd']

theorem State.channelFollows_of_eq (s : State) (h : s.wcu.suspended = s.outputSuspended) (c : Fin 6) :
    s.channelFollows c = s.wcu.channels[c] := by
  unfold State.channelFollows
  rw [h]
  split <;> simp_all

/-! ## A service actuation that nothing ends -/

theorem Ev.followSuspension_of_eq (h : e.wcu.suspended = e.outputSuspended) : e.followSuspension = e := by
  unfold Ev.followSuspension
  rw [h]
  split <;> rfl

theorem Ev.formSpeed_of_eq (h : e.wcu.refSpeed = e.referenceSpeed) : e.formSpeed = e := by
  unfold Ev.formSpeed
  rw [← h]; rfl

theorem Ev.followService_of_steady (h : e.toState.Steadily) : e.followService = e := by
  obtain ⟨_, _, _, _, tag, c, hs, hm, hr, hd, hy, hi⟩ := h
  have h1 : ¬(e.wcu.channels[c].mask.isSome) = true := by rw [hm]; simp
  have h2 : ¬(e.serviceAborted) = true := by
    have : ¬e.asv.supply = .emergency := hy
    simp [State.serviceAborted, State.stationary, hr, hd, hi, this]
  unfold Ev.followService
  rw [hs]
  dsimp only
  rw [if_neg h1, if_neg h2]

/-- `b` agrees with `a` in the fields that the reference speed and the conditions of a service actuation are read from. -/
structure Ev.Sees (a b : Ev) : Prop where
  masks : ∀ c : Fin 6, b.wcu.channels[c].mask = a.wcu.channels[c].mask
  replies : ∀ c : Fin 6, b.wcu.channels[c].lastReply = a.wcu.channels[c].lastReply
  lifted : b.rou.lifted = a.rou.lifted
  idle : b.rou.state = a.rou.state
  link : b.asv.core = a.asv.core
  tables : b.tbu = a.tbu
  refSpeed : b.wcu.refSpeed = a.wcu.refSpeed

/-- It agrees moreover in the service actuation. -/
structure Ev.Reads (a b : Ev) : Prop extends Ev.Sees a b where
  service : b.wcu.service = a.wcu.service
  trainB : b.wcu.trainB = a.wcu.trainB

theorem Channel.mask_of_core {a b : Channel} (h : a.core = b.core) : a.mask = b.mask := show a.core.mask = b.core.mask by rw [h]
theorem Channel.lastReply_of_core {a b : Channel} (h : a.core = b.core) : a.lastReply = b.lastReply :=
  show a.core.lastReply = b.core.lastReply by rw [h]

theorem Ev.Sees.referenceSpeed {a b : Ev} (h : Ev.Sees a b) : b.referenceSpeed = a.referenceSpeed := by
  have hm := h.masks
  have hl := h.replies
  have hk : b.asv.link = a.asv.link := show b.asv.core.link = a.asv.core.link by rw [h.link]
  have ht : b.asv.towSpeed = a.asv.towSpeed := show b.asv.core.towSpeed = a.asv.core.towSpeed by rw [h.link]
  have hu (c : Fin 6) : b.channelUsable c = a.channelUsable c := by unfold State.channelUsable State.channelEntry; rw [hm, h.tables]
  have hc (c : Fin 6) : b.contributes c = a.contributes c := by
    unfold State.contributes State.channelEntry; rw [hu, hl, h.tables, h.lifted]
  have hsp : b.speeds = a.speeds := by
    unfold State.speeds
    refine List.filterMap_congr fun c _ => ?_
    rw [hc, hl]
  unfold State.referenceSpeed
  rw [hsp, hk, ht]

/-- A state that an operation leaves so is as steady as the state before. -/
theorem Ev.Reads.steadily {a b : Ev} (hq : Ev.Quiet a b) (hread : Ev.Reads a b) (hbus : b.wcu.bus = a.wcu.bus)
    (hsus : b.wcu.suspended = a.outputSuspended) (h : a.toState.Steadily) : b.toState.Steadily := by
  obtain ⟨h1, h2, h3, h4, tag, c, g1, g2, g3, g4, g5, g6⟩ := h
  simp only [Wcu.bus, Prod.mk.injEq] at hbus
  have hp : b.apu.power = a.apu.power := show b.apu.core.power = a.apu.core.power by rw [hq.keeps.apu]
  have hrs : b.rst.restore = a.rst.restore := by rw [hq.rst]
  have hdd : b.asv.dEff = a.asv.dEff := show b.asv.core.dEff = a.asv.core.dEff by rw [hq.keeps.asv]
  have hss : b.asv.supply = a.asv.supply := show b.asv.core.supply = a.asv.core.supply by rw [hq.keeps.asv]
  refine ⟨by rw [hq.stays.tbu]; exact h1, ?_, hsus.trans hq.toKeeps.outputSuspended.symm, ?_, tag, c, hread.service.trans g1,
    (hread.masks c).trans g2, ?_, ?_, ?_, ?_⟩
  · unfold State.BusHalted State.restoring at h2 ⊢
    rw [hbus.1, hp, hrs]; exact h2
  · rw [hread.refSpeed, hread.referenceSpeed]; exact h4
  · rw [hread.refSpeed]; exact g3
  · rw [hdd]; exact g4
  · rw [hss]; exact g5
  · rw [hread.idle]; exact g6

theorem Ev.reform_of_steady (h : e.toState.Steadily) : e.reform = e.followAutoPark.formTotal.formDeflated.formPressures := by
  unfold Ev.reform Ev.formStates
  rw [Ev.followSuspension_of_eq e h.2.2.1, Ev.formSpeed_of_eq e h.2.2.2.1, Ev.followService_of_steady e h]

/-- With a service actuation that nothing ends, re-forming leaves the actuation and what it is read from. -/
theorem Ev.reform_steady (h : e.toState.Steadily) : Ev.Quiet e e.reform ∧ e.reform.toState.Steadily := by
  have hb := Ev.reform_bus e
  have hs := Ev.reform_suspended e
  have hr := Ev.reform_of_steady e h
  have hw : e.followAutoPark.formTotal.formDeflated.wcu = e.wcu := by
    rw [Ev.formDeflated_wcu, Ev.formTotal_wcu, Ev.followAutoPark_wcu]
  have hd := Ev.Quiet.formDerived e
  generalize e.followAutoPark.formTotal.formDeflated = d at hr hw hd
  have hq : Ev.Quiet e d.formPressures := hd.trans (.formPressures _)
  have hc : ∀ c : Fin 6, d.formPressures.wcu.channels[c].core = e.wcu.channels[c].core := fun c => by
    rw [(Ev.formPressures_channels d c).1, hw]
  have hsp : d.formPressures.wcu.refSpeed = e.wcu.refSpeed := show d.wcu.refSpeed = _ by rw [hw]
  rw [hr] at hb hs ⊢
  generalize d.formPressures = b at *
  have hread : Ev.Reads e b :=
    ⟨⟨fun c => Channel.mask_of_core (hc c), fun c => Channel.lastReply_of_core (hc c),
      show b.rou.core.lifted = e.rou.core.lifted by rw [hq.stays.rou], show b.rou.core.state = e.rou.core.state by rw [hq.stays.rou],
      hq.keeps.asv, hq.stays.tbu, hsp⟩, hq.rests.service, hq.rests.trainB⟩
  exact ⟨hq, hread.steadily hq hb hs h⟩

theorem Ev.settle_steady (h : e.toState.Steadily) : Ev.Quiet e e.settle ∧ e.settle.toState.Steadily := by
  obtain ⟨hq, hs⟩ := Ev.reform_steady e h
  rw [Ev.settle_of_none e h.1]
  unfold Ev.formed
  generalize e.reform = b at hq hs ⊢
  exact ⟨hq.trans (.setActivity _), hs⟩

/-- The handing on of the conditions leaves the actuation and what it is read from. -/
theorem Ev.handConditions_steady (h : e.toState.Steadily) : e.handConditions.toState.Steadily := by
  have hq := Ev.Quiet.handConditions e
  have hw := Ev.handConditions_wcu e
  generalize e.handConditions = b at hq hw ⊢
  have hread : Ev.Reads e b :=
    ⟨⟨fun c => by rw [hw], fun c => by rw [hw], show b.rou.core.lifted = e.rou.core.lifted by rw [hq.stays.rou],
      show b.rou.core.state = e.rou.core.state by rw [hq.stays.rou], hq.keeps.asv, hq.stays.tbu, by rw [hw]⟩,
      by rw [hw], by rw [hw]⟩
  exact hread.steadily hq (by rw [hw]) (by rw [hw]; exact h.2.2.1) h

theorem Ev.settled_steady (h : e.toState.Steadily) : Ev.Quiet e e.settled := by
  obtain ⟨hq, hs⟩ := Ev.settle_steady e h
  unfold Ev.settled
  generalize e.settle = b at hq hs ⊢
  have hs' := Ev.handConditions_steady b hs
  rw [Ev.pumpChassis_halted _ hs'.2.1]
  exact (hq.trans (.handConditions _)).trans (Ev.settle_steady _ hs').1

/-- What the closing work leaves when a service actuation runs that nothing ends. -/
theorem Ev.react_runs (h : e.toState.Steadily) : e.toState.Rests e.react.toState := by
  rw [Ev.react_eq]
  have h1 := Ev.settled_steady e h
  generalize e.settled = a at h1 ⊢
  have h2 := Ev.Quiet.handConditions (a.setRst a.rst.begun)
  generalize (a.setRst a.rst.begun).handConditions = b at h2 ⊢
  exact (h1.rests.trans (Ev.rests_setRst _ _)).trans h2.rests

end

end Sys2Proof.Machine
end

