-- ==== Sys2Proof/Laws/Channels.lean ====
section
/-! SUPPORT. The channel records through the closing work of an event: the requests that R55 raises, that forming everything a second time
changes nothing, and what the chassis bus transmitter then sends. -/

namespace Sys2Proof.Machine

section
variable (e : Ev)

/-! ## The requests that R55 raises -/

theorem raiseTest_iff (deadband last : Nat) (command : Option Nat) :
    raiseTest deadband last command = true ↔
      ∃ p, command = some p ∧ ((p ≠ last ∧ deadband ≤ ((p : Int) - last).natAbs) ∨ (p = 0 ∧ last ≠ 0)) := by
  cases command with
  | none => simp [raiseTest]
  | some p =>
    have : p - last + (last - p) = ((p : Int) - last).natAbs := by omega
    simp [raiseTest, this]

theorem State.raises_iff (s : State) (c : Fin 6) (command : Option Nat) :
    s.raises c command ↔ s.channelUsable c = true ∧ s.outputSuspended = false ∧
      raiseTest s.tbu.active.channel.deadband s.wcu.channels[c].lastSent command = true := by
  unfold State.raises State.channelUsable
  rw [raiseTest_iff]
  simp only [Bool.and_eq_true, Option.isNone_iff_eq_none, and_assoc]

/-- What a channel's request is raised by is the same in two states that agree in what it is read from. -/
theorem State.Raised.congr {s t : State} {m : Vector Channel 6} (hc : t.wcu.channels = s.wcu.channels)
    (hs : t.wcu.suspended = s.wcu.suspended) (ht : t.tbu.active = s.tbu.active) (ho : t.outputSuspended = s.outputSuspended)
    (h : s.Raised m) : t.Raised m := by
  intro c
  have hu : t.channelUsable c = s.channelUsable c := by simp only [State.channelUsable, State.channelEntry, ht, hc]
  have hf : t.channelFollows c = s.channelFollows c := by simp only [State.channelFollows, hc, hs, ho, hu]
  have hr (x : Option Nat) : t.raises c x ↔ s.raises c x := by rw [State.raises_iff, State.raises_iff, hu, ho, ht, hc]
  rw [hf, hr]
  exact h c

theorem State.channelFollows_mask (s : State) (c : Fin 6) : (s.channelFollows c).mask = s.wcu.channels[c].mask := by
  unfold State.channelFollows; repeat' split
  all_goals rfl

theorem State.channelFollows_lastSent (s : State) (c : Fin 6) : (s.channelFollows c).lastSent = s.wcu.channels[c].lastSent := by
  unfold State.channelFollows; repeat' split
  all_goals rfl

/-- The event's state before the pressures are formed. -/
def Ev.stated : Ev := e.followSuspension.formSpeed.followService.followAutoPark.formTotal.formDeflated

theorem Ev.reform_eq : e.reform = e.stated.formPressures := rfl

theorem Ev.stated_channels : e.stated.wcu.channels = e.followSuspension.wcu.channels := by
  unfold Ev.stated
  rw [Ev.formDeflated_wcu, Ev.formTotal_wcu, Ev.followAutoPark_wcu, Ev.followService_channels]
  rfl

theorem Ev.stated_suspended : e.stated.wcu.suspended = e.outputSuspended := by
  unfold Ev.stated
  rw [Ev.formDeflated_wcu, Ev.formTotal_wcu, Ev.followAutoPark_wcu, Ev.followService_suspended]
  exact Ev.followSuspension_suspended e

theorem Ev.Steady.stated : Ev.Steady e e.stated := by
  unfold Ev.stated
  exact (((Ev.Quiet.followSuspension e).trans (.formSpeed _)).toSteady.trans (.followService _)).trans (Ev.Quiet.formDerived _).toSteady

/-- R54, R55: what forming the pressures makes of a channel. -/
theorem Ev.formPressures_channel (c : Fin 6) :
    e.formPressures.wcu.channels[c] =
      { e.wcu.channels[c] with
        command := e.formPressures.wcu.channels[c].command,
        request := e.wcu.channels[c].request ||
          (e.channelUsable c && !e.wcu.suspended &&
            raiseTest e.tbu.active.channel.deadband e.wcu.channels[c].lastSent e.formPressures.wcu.channels[c].command) } := by
  unfold Ev.formPressures Ev.formCommands Ev.setChannels
  simp only [Ev.setWcu_wcu, Fin.getElem_fin, Vector.getElem_ofFn, Fin.eta]
  rfl

/-- R54, R55: what re-forming makes of a channel. -/
theorem Ev.reform_channel (c : Fin 6) :
    e.reform.wcu.channels[c] =
      { (e.channelFollows c) with
        command := e.reform.wcu.channels[c].command,
        request := (e.channelFollows c).request ||
          (e.channelUsable c && !e.outputSuspended &&
            raiseTest e.tbu.active.channel.deadband e.wcu.channels[c].lastSent e.reform.wcu.channels[c].command) } := by
  have h := Ev.formPressures_channel e.stated c
  have hc : e.stated.wcu.channels[c] = e.channelFollows c := by rw [Ev.stated_channels, Ev.followSuspension_channels]
  have ht := (Ev.Steady.stated e).stays.tbu
  have hu : e.stated.channelUsable c = e.channelUsable c := by
    unfold State.channelUsable State.channelEntry
    rw [hc, State.channelFollows_mask, ht]
  rw [Ev.stated_suspended, hu, hc, ht, State.channelFollows_lastSent] at h
  rw [Ev.reform_eq]
  exact h

/-- R55: after re-forming, a channel's request is set exactly when it was raised before or R55 raises it. -/
theorem Ev.reform_raised : e.toState.Raised e.reform.wcu.channels := by
  intro c
  have h := Ev.reform_channel e c
  generalize e.reform.wcu.channels[c] = x at h ⊢
  refine ⟨by rw [h]; rfl, ?_⟩
  rw [State.raises_iff, h]
  simp only [Bool.or_eq_true, Bool.and_eq_true, Bool.not_eq_true', and_assoc]

/-! ## Forming a second time changes nothing -/

/-- What the pressures and commands are formed from. -/
structure Ev.Inputs (a b : Ev) : Prop where
  tables : b.tbu = a.tbu
  entries : b.twu.entries = a.twu.entries
  dEff : b.asv.dEff = a.asv.dEff
  supply : b.asv.supply = a.asv.supply
  axles : ∀ i : Fin 4, b.lap.axles[i].core = a.lap.axles[i].core
  pressures : b.rou.pressures = a.rou.pressures
  trainA : b.wcu.trainA = a.wcu.trainA
  trainB : b.wcu.trainB = a.wcu.trainB
  masks : ∀ c : Fin 6, b.wcu.channels[c].mask = a.wcu.channels[c].mask

/-- R36 to R41, R52, R53: the final pressure that a wheel end is given. -/
def State.pressureFormed (s : State) (w : Fin 8) : Option Nat :=
  ((s.lap.axles[wheelAxle w].apportion s.tbu.active.axle[wheelAxle w] s.asv.dEff).target.map fun t => min t (s.tyreCap w)).map fun p =>
    finalPressure p (if s.asv.supply = .parked then 0 else s.rolloverContribution w) (s.trainContribution s.wcu.trainB w) (s.tyreCap w)

/-- R54: the computed command that a channel is given. -/
def State.commandFormed (s : State) (c : Fin 6) : Option Nat :=
  match ((List.finRange 8).filter fun w => (s.channelEntry c).serves w).map s.pressureFormed with
  | [] => none
  | f :: fs => fs.foldl minDefined f

/-! What the forming of the pressures leaves of what the contributions are formed from. -/

theorem Ev.formCaps_wheel (w : Fin 8) : e.formCaps.wcu.wheels[w].cap = e.tyreCap w := by
  simp [Ev.formCaps]
theorem Ev.formTargets_target (i : Fin 4) :
    e.formTargets.lap.axles[i].target = (e.lap.axles[i].apportion e.tbu.active.axle[i] e.asv.dEff).target := by
  simp [Ev.formTargets, Ev.setAxles]
theorem Ev.formApportioned_wheel (w : Fin 8) :
    e.formApportioned.wcu.wheels[w].cap = e.wcu.wheels[w].cap ∧
      e.formApportioned.wcu.wheels[w].w = e.lap.axles[wheelAxle w].target.map fun t => min t e.wcu.wheels[w].cap := by
  simp [Ev.formApportioned]
theorem Ev.formContributions_wheel (w : Fin 8) :
    e.formContributions.wcu.wheels[w].cap = e.wcu.wheels[w].cap ∧ e.formContributions.wcu.wheels[w].w = e.wcu.wheels[w].w ∧
      e.formContributions.wcu.wheels[w].i = e.rolloverContribution w ∧
      e.formContributions.wcu.wheels[w].s = e.trainContribution e.wcu.trainB w := by
  simp [Ev.formContributions]
theorem Ev.formFinals_final (w : Fin 8) :
    e.formFinals.wcu.wheels[w].f =
      e.wcu.wheels[w].w.map fun p => finalPressure p (e.effectiveRollover w) e.wcu.wheels[w].s e.wcu.wheels[w].cap := by
  simp [Ev.formFinals]

theorem Ev.formFinals_wheel (w : Fin 8) :
    e.formCaps.formTargets.formApportioned.formContributions.formFinals.wcu.wheels[w].f = e.pressureFormed w := by
  have hr : e.formCaps.formTargets.formApportioned.rolloverContribution w = e.rolloverContribution w := rfl
  have hs : e.formCaps.formTargets.formApportioned.trainContribution e.formCaps.formTargets.formApportioned.wcu.trainB w =
    e.trainContribution e.wcu.trainB w := rfl
  have ha : e.formCaps.formTargets.formApportioned.formContributions.asv = e.asv := rfl
  have hc := Ev.formCaps_wheel e w
  have ht := Ev.formTargets_target e.formCaps (wheelAxle w)
  have hw : e.formCaps.formTargets.wcu.wheels[w] = e.formCaps.wcu.wheels[w] := rfl
  have hl : e.formCaps.lap = e.lap := rfl
  have hb : e.formCaps.tbu = e.tbu := rfl
  have hd : e.formCaps.asv = e.asv := rfl
  rw [hl, hb, hd] at ht
  rw [← hw] at hc
  generalize e.formCaps.formTargets = a at *
  obtain ⟨h1, h2⟩ := Ev.formApportioned_wheel a w
  rw [ht, hc] at h2
  rw [hc] at h1
  generalize a.formApportioned = b at *
  obtain ⟨g1, g2, g3, g4⟩ := Ev.formContributions_wheel b w
  rw [Ev.formFinals_final]
  unfold State.effectiveRollover
  rw [g1, g2, g3, g4, hr, hs, ha, h1, h2]
  rfl

theorem Ev.formPressures_command (c : Fin 6) : e.formPressures.wcu.channels[c].command = e.commandFormed c := by
  unfold Ev.formPressures Ev.formCommands Ev.setChannels State.computedCommand State.commandFormed
  simp only [Ev.setWcu_wcu, Fin.getElem_fin, Vector.getElem_ofFn, Fin.eta]
  have h : (fun w : Fin 8 => e.formCaps.formTargets.formApportioned.formContributions.formFinals.wcu.wheels[w.val].f) = e.pressureFormed :=
    funext fun w => Ev.formFinals_wheel e w
  rw [h]
  rfl

theorem LoadRecord.apportion_target {x y : LoadRecord} (h : x.core = y.core) (t : AxleEntry) (d : Option Nat) :
    (x.apportion t d).target = (y.apportion t d).target := by
  have hs : x.status = y.status := show x.core.status = y.core.status by rw [h]
  have hl : x.lF = y.lF := show x.core.lF = y.core.lF by rw [h]
  unfold LoadRecord.apportion loadRatio
  rw [hs, hl]
  dsimp only
  split <;> rfl

theorem Ev.Inputs.command {a b : Ev} (h : Ev.Inputs a b) (c : Fin 6) : b.commandFormed c = a.commandFormed c := by
  have hu (d : Fin 6) : b.channelUsable d = a.channelUsable d := by
    simp only [State.channelUsable, State.channelEntry, h.tables, h.masks]
  have hcap (w : Fin 8) : b.tyreCap w = a.tyreCap w := by
    simp only [State.tyreCap, State.boundEntries, State.countsDeflated, State.evaluated, h.tables, h.entries]
    rfl
  have ht (x : PulseTrain) (w : Fin 8) : b.trainContribution x w = a.trainContribution x w := by
    simp only [State.trainContribution, State.channelEntry, h.tables, hu]
    rfl
  have hw (w : Fin 8) : b.pressureFormed w = a.pressureFormed w := by
    unfold State.pressureFormed State.rolloverContribution
    rw [hcap, h.dEff, h.supply, h.tables, h.trainA, h.trainB, h.pressures, ht, ht, LoadRecord.apportion_target (h.axles _)]
  have hp : b.pressureFormed = a.pressureFormed := funext hw
  unfold State.commandFormed State.channelEntry
  rw [hp, h.tables]

/-- R73, R74: nothing of the service actuation is left to start or to end. -/
def State.ServiceSettled (s : State) : Prop :=
  match s.wcu.service with
  | .none => True
  | .held _ a _ => s.serviceReason a.channel ≠ none
  | .running _ c => s.wcu.channels[c].mask = none ∧ s.serviceAborted = false

theorem Ev.followService_settled (h : e.ServiceSettled) : e.followService = e := by
  unfold State.ServiceSettled at h
  unfold Ev.followService
  split
  · rfl
  · next he => rw [he] at h; rw [if_neg h]
  · next he =>
    rw [he] at h
    rw [if_neg (by rw [h.1]; simp), if_neg (by rw [h.2]; simp)]

theorem State.serviceReason_none {s : State} {c : Fin 6} (h : s.serviceReason c = none) :
    s.channelUsable c = true ∧ s.serviceAborted = false := by
  unfold State.serviceReason at h
  unfold State.serviceAborted
  repeat' split at h
  all_goals simp_all
  intro hx
  simp_all

theorem Ev.followService_leaves : e.followService.ServiceSettled := by
  unfold Ev.followService
  split
  · next he => unfold State.ServiceSettled; rw [he]; trivial
  · next tag a timer he =>
    split
    · next hr =>
      obtain ⟨hu, ha⟩ := State.serviceReason_none hr
      have hm : e.wcu.channels[a.channel].mask = none := by
        simp only [State.channelUsable, Bool.and_eq_true, Option.isNone_iff_eq_none] at hu; exact hu.2
      have hs : ((e.setLru { e.lru with slotService := none }).startService tag a).wcu.service = .running tag a.channel := by
        unfold Ev.startService Ev.startTrain; dsimp only; split <;> rfl
      have hc := Ev.startService_channels (e.setLru { e.lru with slotService := none }) tag a
      have hx : ((e.setLru { e.lru with slotService := none }).startService tag a).serviceAborted = e.serviceAborted := by
        unfold Ev.startService Ev.startTrain; dsimp only; split <;> rfl
      unfold State.ServiceSettled
      rw [hs]
      exact ⟨by rw [hc]; exact hm, by rw [hx]; exact ha⟩
    · next hr => unfold State.ServiceSettled; rw [he]; exact hr
  · next tag c he =>
    split
    · exact trivial
    · next hm =>
      split
      · exact trivial
      · next ha =>
        unfold State.ServiceSettled
        rw [he]
        exact ⟨by simpa using hm, by simpa using ha⟩

theorem Ev.Sees.of_steady {a b : Ev} (h : Ev.Steady a b) (hm : ∀ c : Fin 6, b.wcu.channels[c].mask = a.wcu.channels[c].mask)
    (hr : ∀ c : Fin 6, b.wcu.channels[c].lastReply = a.wcu.channels[c].lastReply) (hs : b.wcu.refSpeed = a.wcu.refSpeed) : Ev.Sees a b :=
  ⟨hm, hr, show b.rou.core.lifted = a.rou.core.lifted by rw [h.stays.rou], show b.rou.core.state = a.rou.core.state by rw [h.stays.rou],
    h.keeps.asv, h.stays.tbu, hs⟩

theorem Ev.Reads.settled {a b : Ev} (h : Ev.Reads a b) (g : a.ServiceSettled) : b.ServiceSettled := by
  have hd : b.asv.dEff = a.asv.dEff := show b.asv.core.dEff = a.asv.core.dEff by rw [h.link]
  have hy : b.asv.supply = a.asv.supply := show b.asv.core.supply = a.asv.core.supply by rw [h.link]
  have hu (c : Fin 6) : b.channelUsable c = a.channelUsable c := by simp only [State.channelUsable, State.channelEntry, h.tables, h.masks]
  unfold State.ServiceSettled State.serviceReason State.serviceAborted State.stationary at *
  rw [h.service, h.refSpeed, hd, hy, h.idle]
  simp only [hu, h.masks]
  exact g

theorem Ev.Inputs.of_quiet {a b : Ev} (h : Ev.Quiet a b) (hm : ∀ c : Fin 6, b.wcu.channels[c].mask = a.wcu.channels[c].mask) :
    Ev.Inputs a b :=
  ⟨h.stays.tbu, show b.twu.core.entries = a.twu.core.entries by rw [h.stays.twu],
    show b.asv.core.dEff = a.asv.core.dEff by rw [h.keeps.asv], show b.asv.core.supply = a.asv.core.supply by rw [h.keeps.asv],
    h.stays.axles, show b.rou.core.pressures = a.rou.core.pressures by rw [h.stays.rou], h.stays.trainA, h.rests.trainB, hm⟩

theorem Channel.lastSent_of_core {a b : Channel} (h : a.core = b.core) : a.lastSent = b.lastSent :=
  show a.core.lastSent = b.core.lastSent by rw [h]

/-- R55: what would raise a channel's request. -/
def State.due (s : State) (c : Fin 6) : Bool :=
  s.channelUsable c && !s.outputSuspended &&
    raiseTest s.tbu.active.channel.deadband s.wcu.channels[c].lastSent s.wcu.channels[c].command

/-- Everything that an event re-forms is formed. -/
structure Ev.Formed (y : Ev) : Prop where
  suspended : y.wcu.suspended = y.outputSuspended
  speed : y.wcu.refSpeed = y.referenceSpeed
  service : y.ServiceSettled
  commands : ∀ c : Fin 6, y.wcu.channels[c].command = y.commandFormed c
  requests : ∀ c : Fin 6, y.due c = true → y.wcu.channels[c].request = true

theorem Ev.followService_refSpeed : e.followService.wcu.refSpeed = e.wcu.refSpeed := by
  have hs (a : Ev) (t : Tag) (x : ServiceArgs) : (a.startService t x).wcu.refSpeed = a.wcu.refSpeed := by
    unfold Ev.startService Ev.startTrain; dsimp only; split <;> rfl
  unfold Ev.followService; split
  · rfl
  · split
    · rw [hs]; rfl
    · rfl
  · split
    · rfl
    · split <;> rfl

theorem Ev.formed_wcu : e.formed.wcu = e.reform.wcu := rfl
theorem Ev.formPressures_refSpeed : e.formPressures.wcu.refSpeed = e.wcu.refSpeed := rfl
theorem Ev.formSpeed_refSpeed : e.formSpeed.wcu.refSpeed = e.formSpeed.referenceSpeed := rfl

/-- Re-forming leaves everything formed. -/
theorem Ev.Formed.formed : e.formed.Formed := by
  have hsus : e.formed.wcu.suspended = e.formed.outputSuspended := by
    rw [Ev.formed_wcu, Ev.reform_suspended, (Ev.Steady.formed e).toKeeps.outputSuspended]
  have hch (c : Fin 6) := Ev.reform_channel e c
  have hx : ∃ x, x = e.followSuspension.formSpeed := ⟨_, rfl⟩
  obtain ⟨x, hx⟩ := hx
  have hsp : x.wcu.refSpeed = x.referenceSpeed := by rw [hx, Ev.formSpeed_refSpeed]
  have hd : e.stated = x.followService.followAutoPark.formTotal.formDeflated := by rw [hx]; rfl
  have hdw : e.stated.wcu = x.followService.wcu := by rw [hd, Ev.formDeflated_wcu, Ev.formTotal_wcu, Ev.followAutoPark_wcu]
  have q1 : Ev.Quiet x.followService e.stated := by rw [hd]; exact Ev.Quiet.formDerived _
  have q2 : Ev.Quiet e.stated e.formed := (Ev.Quiet.formPressures e.stated).trans (.setActivity _)
  have hp : e.formed.wcu = e.stated.formPressures.wcu := by rw [Ev.formed_wcu, Ev.reform_eq]
  have hcore : ∀ c : Fin 6, e.formed.wcu.channels[c].core = e.stated.wcu.channels[c].core := fun c => by
    rw [hp]; exact (Ev.formPressures_channels e.stated c).1
  have hspd : e.formed.wcu.refSpeed = e.stated.wcu.refSpeed := by rw [hp, Ev.formPressures_refSpeed]
  have hcom : ∀ c : Fin 6, e.formed.wcu.channels[c].command = e.stated.commandFormed c := fun c => by
    rw [hp, Ev.formPressures_command]
  have hst := Ev.Steady.formed e
  have hw := Ev.formed_wcu e
  rw [← hw] at hch
  generalize e.formed = y at *
  generalize e.stated = d at *
  have hm (c : Fin 6) := Channel.mask_of_core (hcore c)
  have hl (c : Fin 6) := Channel.lastReply_of_core (hcore c)
  have hcx : x.followService.wcu.channels = x.wcu.channels := Ev.followService_channels x
  have s1 : Ev.Sees x y := Ev.Sees.of_steady (((Ev.Steady.followService x).trans q1.toSteady).trans q2.toSteady)
    (fun c => by rw [hm, hdw, hcx]) (fun c => by rw [hl, hdw, hcx]) (by rw [hspd, hdw, Ev.followService_refSpeed])
  have r1 : Ev.Reads x.followService y := ⟨Ev.Sees.of_steady (q1.toSteady.trans q2.toSteady) (fun c => by rw [hm, hdw])
    (fun c => by rw [hl, hdw]) (by rw [hspd, hdw]), (q1.trans q2).rests.service, (q1.trans q2).rests.trainB⟩
  refine ⟨hsus, by rw [s1.referenceSpeed, ← hsp, s1.refSpeed], r1.settled (Ev.followService_leaves x), fun c => ?_, fun c hdue => ?_⟩
  · rw [hcom, (Ev.Inputs.of_quiet q2 hm).command]
  · have h := hch c
    have hu : y.channelUsable c = e.channelUsable c := by
      unfold State.channelUsable State.channelEntry
      rw [h, hst.stays.tbu, State.channelFollows_mask]
    have hls : y.wcu.channels[c].lastSent = e.wcu.channels[c].lastSent := by rw [h, State.channelFollows_lastSent]
    unfold State.due at hdue
    rw [hu, hst.toKeeps.outputSuspended, hst.stays.tbu, hls] at hdue
    rw [h, hdue, Bool.or_true]

/-- Where everything is formed, forming it again leaves the channels. -/
theorem Ev.Formed.again {z : Ev} (h : z.Formed) : z.formed.wcu.channels = z.wcu.channels := by
  have hs : z.stated = z.followAutoPark.formTotal.formDeflated := by
    unfold Ev.stated
    rw [Ev.followSuspension_of_eq z h.suspended, Ev.formSpeed_of_eq z h.speed, Ev.followService_settled z h.service]
  have hq : Ev.Quiet z z.stated := by rw [hs]; exact Ev.Quiet.formDerived z
  have hw : z.stated.wcu = z.wcu := by rw [hs, Ev.formDeflated_wcu, Ev.formTotal_wcu, Ev.followAutoPark_wcu]
  have hi := Ev.Inputs.of_quiet hq (fun c => by rw [hw])
  have hc (c : Fin 6) : z.reform.wcu.channels[c] = z.wcu.channels[c] := by
    have hcom : z.reform.wcu.channels[c].command = z.wcu.channels[c].command := by
      rw [Ev.reform_eq, Ev.formPressures_command, hi.command, h.commands]
    have hx := Ev.reform_channel z c
    rw [hcom, State.channelFollows_of_eq z.toState h.suspended] at hx
    have hr := h.requests c
    unfold State.due at hr
    rw [hx]
    generalize (z.channelUsable c && !z.outputSuspended &&
      raiseTest z.tbu.active.channel.deadband z.wcu.channels[c].lastSent z.wcu.channels[c].command) = b at hr
    generalize z.wcu.channels[c] = ch at hr
    obtain ⟨_, _, r, _, _, _, _, _⟩ := ch
    cases b
    · rw [Bool.or_false]
    · have : r = true := hr rfl
      rw [this]; rfl
  rw [Ev.formed_wcu]
  exact Vector.ext fun i hi => hc ⟨i, hi⟩

/-- What leaves what is formed from and the commands leaves everything formed, if no request is due that is not raised. -/
theorem Ev.Formed.of_quiet {y z : Ev} (h : y.Formed) (hq : Ev.Quiet y z)
    (hm : ∀ c : Fin 6, z.wcu.channels[c].mask = y.wcu.channels[c].mask)
    (hl : ∀ c : Fin 6, z.wcu.channels[c].lastReply = y.wcu.channels[c].lastReply) (hs : z.wcu.refSpeed = y.wcu.refSpeed)
    (hu : z.wcu.suspended = y.wcu.suspended) (hc : ∀ c : Fin 6, z.wcu.channels[c].command = y.wcu.channels[c].command)
    (hr : ∀ c : Fin 6, z.due c = true → z.wcu.channels[c].request = true) : z.Formed := by
  have hsee := Ev.Sees.of_steady hq.toSteady hm hl hs
  exact ⟨by rw [hu, hq.toKeeps.outputSuspended]; exact h.suspended, by rw [hs, hsee.referenceSpeed]; exact h.speed,
    Ev.Reads.settled ⟨hsee, hq.rests.service, hq.rests.trainB⟩ h.service,
    fun c => by rw [hc, h.commands, (Ev.Inputs.of_quiet hq hm).command], hr⟩

/-- With no channel's record changed, everything stays formed. -/
theorem Ev.Formed.of_channels {y z : Ev} (h : y.Formed) (hq : Ev.Quiet y z) (hc : z.wcu.channels = y.wcu.channels)
    (hs : z.wcu.refSpeed = y.wcu.refSpeed) (hu : z.wcu.suspended = y.wcu.suspended) : z.Formed :=
  h.of_quiet hq (fun c => by rw [hc]) (fun c => by rw [hc]) hs hu (fun c => by rw [hc]) fun c hd => by
    rw [hc]
    refine h.requests c ?_
    unfold State.due State.channelUsable State.channelEntry at *
    rw [hc, hq.stays.tbu, hq.toKeeps.outputSuspended] at hd
    exact hd

/-! ## What the transmitter sends -/

/-- R54, R67: what the command of a channel carries, and of one that has none. -/
theorem State.sentPressure_spec (s : State) (c : Fin 6) :
    s.wcu.channels[c].command = some (s.sentPressure c) ∨
      (s.wcu.channels[c].command = none ∧ s.sentPressure c ≤ 1000 ∧
        (s.asv.supply = .parked → s.sentPressure c = 0 ∨ ∃ tag, s.wcu.service = .running tag c)) := by
  unfold State.sentPressure
  cases s.wcu.channels[c].command with
  | some p => exact .inl rfl
  | none =>
    refine .inr ⟨rfl, ?_, fun hp => ?_⟩
    · dsimp only [Option.getD_none]
      split
      · exact Nat.zero_le _
      · exact Nat.min_le_left _ _
    · cases hs : s.wcu.service with
      | running tag d =>
        by_cases hd : d = c
        · exact .inr ⟨tag, by rw [hd]⟩
        · exact .inl (by simp [hp, Service.runs, hd])
      | held tag a timer => exact .inl (by simp [hp, Service.runs])
      | none => exact .inl (by simp [hp, Service.runs])

/-- R73: a service actuation that runs once an event has formed everything ran before it, or was held for the channel. -/
theorem Ev.announced_runs (tag : Tag) (c : Fin 6) (h : e.announced.wcu.service = .running tag c) : e.toState.mayActuate c := by
  have h1 : Ev.Quiet e e.followSuspension.formSpeed := (Ev.Quiet.followSuspension e).trans (.formSpeed _)
  have hs : e.announced.wcu.service = e.followSuspension.formSpeed.followService.wcu.service := by
    unfold Ev.announced Ev.formed Ev.reform Ev.formStates
    generalize e.followSuspension.formSpeed.followService = x
    exact ((((Ev.Quiet.formDerived x).trans (.formPressures _)).trans (.setActivity _)).trans (.handConditions _)).rests.service
  rw [hs] at h
  have hx := h1.rests.service
  generalize e.followSuspension.formSpeed = a at h hx
  unfold State.mayActuate
  rw [← hx]
  have hst (b : Ev) (t : Tag) (x : ServiceArgs) : (b.startService t x).wcu.service = .running t x.channel := rfl
  have hab (t : Tag) (r : Result) : (a.abortService t r).wcu.service = .none := rfl
  unfold Ev.followService at h
  cases hc : a.wcu.service with
  | none => rw [hc] at h; dsimp only at h; rw [hc] at h; cases h
  | held t x timer =>
    rw [hc] at h; dsimp only at h
    split at h
    · rw [hst] at h; injection h with _ h2; exact .inr ⟨t, x, timer, rfl, h2⟩
    · rw [hc] at h; cases h
  | running t d =>
    rw [hc] at h; dsimp only at h
    split at h
    · rw [hab] at h; cases h
    · split at h
      · rw [hab] at h; cases h
      · rw [hc] at h; exact .inl ⟨tag, h⟩

/-- R57, R61: the sending of a channel's command, as the statements say it. -/
theorem Ev.sendChannel_wcu (c : Fin 6) (ranking : List (Fin 6)) :
    ((e.setWcu { e.wcu with ranking := ranking }).sendChannel c).wcu =
      (e.toState.channelSent c (e.sentPressure c) ranking).wcu := by
  unfold Ev.sendChannel State.channelSent Ev.maskChannel Ev.setChannel modifyAt
  dsimp only
  generalize hm : (if e.wcu.channels[c].awaiting = true then e.wcu.channels[c].missCount + 1 else e.wcu.channels[c].missCount) = n
  have hm' : (if (e.setWcu { e.wcu with ranking := ranking }).wcu.channels[c].awaiting = true then
      (e.setWcu { e.wcu with ranking := ranking }).wcu.channels[c].missCount + 1
    else (e.setWcu { e.wcu with ranking := ranking }).wcu.channels[c].missCount) = n := hm
  rw [hm', show (e.setWcu { e.wcu with ranking := ranking }).sentPressure c = e.sentPressure c from rfl]
  generalize e.sentPressure c = p
  by_cases h : 3 ≤ n
  · rw [if_pos h, if_pos h]
    simp [be16, State.timer, State.channelEntry]
  · rw [if_neg h, if_neg h]
    simp [be16, State.timer, State.channelEntry]

/-- The channels and the frame of a sending are the same in two states that agree in the channels and the CHANNEL table. -/
theorem State.channelSent_congr {s t : State} (hc : t.wcu.channels = s.wcu.channels) (ht : t.tbu = s.tbu) (hk : t.clock = s.clock)
    (c : Fin 6) (p : Nat) (ranking : List (Fin 6)) :
    (t.channelSent c p ranking).wcu.channels = (s.channelSent c p ranking).wcu.channels ∧
      (t.channelSent c p ranking).wcu.tx = (s.channelSent c p ranking).wcu.tx := by
  unfold State.channelSent
  dsimp only
  rw [hc, ht, hk]
  exact ⟨rfl, rfl⟩

/-- R58: the channel that the statements choose is the one that is sent next. -/
theorem State.nextChannel_of_chooses {s : State} {c : Fin 6} {ranking : List (Fin 6)} (h : s.chooses s.wcu.channels c ranking) :
    s.nextChannel = some (c, ranking) := by
  unfold State.chooses at h
  obtain ⟨hc, h⟩ := h
  unfold State.nextChannel
  cases hm : s.tbu.active.channel.mode with
  | fixed =>
    rw [hm] at h
    obtain ⟨hr, hd⟩ := h
    have hf : (List.finRange 6).find? (fun d => s.wcu.channels[d].request) = some c := by
      rw [List.find?_eq_some_iff_getElem]
      refine ⟨hc, c.val, by simp, by simp, fun j hj => ?_⟩
      have hj6 : j < 6 := by omega
      have := hd ⟨j, hj6⟩ hj
      simpa using this
    dsimp only
    rw [hf, hr]; rfl
  | rotating =>
    rw [hm] at h
    obtain ⟨before, after, hr, hn, hb, rfl⟩ := h
    have hf : s.wcu.ranking.find? (fun d => s.wcu.channels[d].request) = some c := by
      rw [List.find?_eq_some_iff_append]
      exact ⟨hc, before, after, hr, fun d hd => by rw [hb d hd]; rfl⟩
    have hx : s.wcu.ranking.filter (· != c) = before ++ after := by
      have h1 : before.filter (· != c) = before := List.filter_eq_self.2 fun d hd => by
        have : d ≠ c := fun x => by rw [← x, hb d hd] at hc; cases hc
        simpa using this
      have h2 : after.filter (· != c) = after := List.filter_eq_self.2 fun d hd => by
        have : d ≠ c := fun x => hn (x ▸ hd)
        simpa using this
      rw [hr, List.filter_append, List.filter_cons, h1, h2]; simp
    dsimp only
    rw [hf, Option.map_some, hx]

theorem State.nextChannel_none {s : State} (h : ∀ c : Fin 6, s.wcu.channels[c].request = false) : s.nextChannel = none := by
  unfold State.nextChannel
  split
  · rw [List.find?_eq_none.2 fun d _ => by rw [h d]; simp]; rfl
  · rw [List.find?_eq_none.2 fun d _ => by rw [h d]; simp]; rfl

theorem Ev.not_halted {e : Ev} (h : ¬e.toState.BusHalted) : ¬(e.wcu.tx.isSome || e.restoring || e.apu.power != .run) = true := by
  unfold State.BusHalted at h
  simp only [not_or] at h
  simp [h.1, h.2.1, h.2.2]

/-- Whether the transmitter is halted is what forming everything leaves. -/
theorem Ev.formed_bus : e.formed.wcu.bus = e.wcu.bus := Ev.reform_bus e

theorem Ev.formed_halted : e.formed.toState.BusHalted ↔ e.toState.BusHalted := by
  have hk := (Ev.Steady.formed e).keeps
  have ht := Ev.formed_bus e
  simp only [Wcu.bus, Prod.mk.injEq] at ht
  generalize e.formed = a at hk ht ⊢
  have hp : a.apu.power = e.apu.power := show a.apu.core.power = e.apu.core.power by rw [hk.apu]
  have hr : a.rst.restore = e.rst.restore := show a.rst.core.restore = e.rst.core.restore by rw [hk.rst]
  unfold State.BusHalted State.restoring
  rw [ht.1, hp, hr]

theorem Ev.announced_wcu : e.announced.wcu = e.formed.wcu := by rw [Ev.announced, Ev.handConditions_wcu]

theorem Ev.announced_bus : e.announced.wcu.bus = e.wcu.bus := by rw [Ev.announced_wcu]; exact Ev.formed_bus e

theorem Ev.announced_halted : e.announced.toState.BusHalted ↔ e.toState.BusHalted := by
  rw [Ev.announced, Ev.handConditions_halted, Ev.formed_halted]

theorem Ev.Formed.announced : e.announced.Formed := by
  have h := Ev.Formed.formed e
  unfold Ev.announced
  generalize e.formed = y at h ⊢
  have hw := Ev.handConditions_wcu y
  exact h.of_channels (.handConditions _) (by rw [hw]) (by rw [hw]) (by rw [hw])

/-- The sending of a valve command leaves the channels. -/
theorem Ev.sendValve_wcu (k : ValveKind) :
    (e.sendValve k).wcu.channels = e.wcu.channels ∧ (e.sendValve k).wcu.refSpeed = e.wcu.refSpeed ∧
      (e.sendValve k).wcu.suspended = e.wcu.suspended := by
  unfold Ev.sendValve; dsimp only
  split
  · split <;> exact ⟨rfl, rfl, rfl⟩
  · exact ⟨rfl, rfl, rfl⟩

/-- R55, R57: while the transmitter takes no channel, the channels are those whose requests R55 raises, and the ranking is kept. -/
theorem Ev.settled_channels (hk : Ev.Kept e e.settled) (h : e.toState.BusHalted ∨ e.wcu.pendingValve ≠ none) :
    e.toState.Raised e.settled.wcu.channels ∧ e.settled.wcu.ranking = e.wcu.ranking := by
  have hf := Ev.Formed.announced e
  have hr : e.toState.Raised e.announced.wcu.channels := by rw [Ev.announced_wcu]; exact Ev.reform_raised e
  have hb := Ev.announced_bus e
  have hh := Ev.announced_halted e
  rw [Ev.settled_of_kept e hk]
  generalize e.announced = y at *
  simp only [Wcu.bus, Prod.mk.injEq] at hb
  have hy : y.pumpChassis.wcu.channels = y.wcu.channels ∧ y.pumpChassis.wcu.refSpeed = y.wcu.refSpeed ∧
      y.pumpChassis.wcu.suspended = y.wcu.suspended ∧ y.pumpChassis.wcu.ranking = y.wcu.ranking := by
    by_cases hx : y.toState.BusHalted
    · rw [Ev.pumpChassis_halted y hx]; exact ⟨rfl, rfl, rfl, rfl⟩
    · rcases h with h | h
      · exact absurd (hh.2 h) hx
      · cases hv : y.wcu.pendingValve with
        | none => rw [hb.2.1] at hv; exact absurd hv h
        | some k =>
          have hbus := Ev.pumpChassis_valve y hx k hv
          simp only [Wcu.bus, Prod.mk.injEq] at hbus
          have hs : y.pumpChassis = y.sendValve k := by
            unfold Ev.pumpChassis
            rw [if_neg (Ev.not_halted hx), hv]
          obtain ⟨g1, g2, g3⟩ := Ev.sendValve_wcu y k
          exact ⟨by rw [hs, g1], by rw [hs, g2], by rw [hs, g3], hbus.2.2⟩
  have hz := hf.of_channels (Ev.Quiet.pumpChassis y) hy.1 hy.2.1 hy.2.2.1
  have hbz := Ev.formed_bus y.pumpChassis
  simp only [Wcu.bus, Prod.mk.injEq] at hbz
  exact ⟨by rw [hz.again, hy.1]; exact hr, by rw [hbz.2.2, hy.2.2.2, hb.2.2]⟩

/-- A channel whose command has just been sent raises no request. -/
theorem raiseTest_sent (deadband : Nat) (command : Option Nat) (free : Nat) :
    raiseTest deadband (command.getD free) command = false := by
  rw [Bool.eq_false_iff, Ne, raiseTest_iff]
  rintro ⟨p, rfl, h⟩
  simp at h

/-- R61: what a sending makes of the channel records. -/
theorem State.channelSent_channel (s : State) (c d : Fin 6) (p : Nat) (ranking : List (Fin 6)) :
    (s.channelSent c p ranking).wcu.channels[d] =
      if d = c then (s.channelSent c p ranking).wcu.channels[c] else s.wcu.channels[d] := by
  by_cases h : d = c
  · rw [if_pos h, h]
  · have : c.val ≠ d.val := fun x => h (Fin.ext x.symm)
    rw [if_neg h]
    simp [State.channelSent, this]

/-- R61: the record of a sent channel that the miss test does not mask. -/
theorem State.channelSent_unmasked (s : State) (c : Fin 6) (p : Nat) (ranking : List (Fin 6))
    (h : (s.channelSent c p ranking).wcu.channels[c].missCount < 3) :
    let ch := (s.channelSent c p ranking).wcu.channels[c]
    ch.mask = s.wcu.channels[c].mask ∧ ch.lastReply = s.wcu.channels[c].lastReply ∧ ch.command = s.wcu.channels[c].command ∧
      ch.lastSent = p := by
  have hx : (s.channelSent c p ranking).wcu.channels[c].missCount =
      if s.wcu.channels[c].awaiting then s.wcu.channels[c].missCount + 1 else s.wcu.channels[c].missCount := by
    simp only [State.channelSent, Fin.getElem_fin, Vector.getElem_set_self]
    generalize (if s.wcu.channels[c.val].awaiting = true then s.wcu.channels[c.val].missCount + 1
      else s.wcu.channels[c.val].missCount) = n
    split <;> rfl
  rw [hx] at h
  simp only [State.channelSent, Fin.getElem_fin, Vector.getElem_set_self]
  simp only [Fin.getElem_fin] at h
  rw [if_neg (by omega)]
  exact ⟨rfl, rfl, rfl, rfl⟩

/-- After the sending of a channel's command that does not mask it, everything is formed still. -/
theorem Ev.Formed.sent {y z : Ev} (h : y.Formed) (hq : Ev.Quiet y z) (c : Fin 6) (free : Nat) (ranking : List (Fin 6))
    (hw : z.wcu = (y.toState.channelSent c (y.wcu.channels[c].command.getD free) ranking).wcu)
    (hm : z.wcu.channels[c].missCount < 3) : z.Formed := by
  have hd (d : Fin 6) := State.channelSent_channel y.toState c d (y.wcu.channels[c].command.getD free) ranking
  rw [hw] at hm
  have hu := State.channelSent_unmasked y.toState c _ ranking hm
  rw [← hw] at hd hu
  dsimp only at hu
  obtain ⟨h1, h2, h3, h4⟩ := hu
  have hs : z.wcu.refSpeed = y.wcu.refSpeed := by rw [hw]; rfl
  have hsus : z.wcu.suspended = y.wcu.suspended := by rw [hw]; rfl
  refine h.of_quiet hq (fun d => ?_) (fun d => ?_) hs hsus (fun d => ?_) fun d hdue => ?_
  · rw [hd d]; split
    · next x => rw [h1, x]
    · rfl
  · rw [hd d]; split
    · next x => rw [h2, x]
    · rfl
  · rw [hd d]; split
    · next x => rw [h3, x]
    · rfl
  · have hdd := hd d
    by_cases x : d = c
    · subst x
      unfold State.due at hdue
      rw [h4, h3, raiseTest_sent, Bool.and_false] at hdue
      cases hdue
    · rw [if_neg x] at hdd
      rw [hdd]
      refine h.requests d ?_
      unfold State.due State.channelUsable State.channelEntry at *
      rw [hdd, hq.stays.tbu, hq.toKeeps.outputSuspended] at hdue
      exact hdue

/-- R55, R57, R58, R61: a free transmitter with no valve command waiting takes the channel that the statements choose. -/
theorem Ev.settled_sends (hk : Ev.Kept e e.settled) (h : ¬e.toState.BusHalted) (hv : e.wcu.pendingValve = none) (t : State)
    (ht : t.wcu = e.settled.wcu) : e.toState.SendsChannel t ∧ t.wcu.pendingValve = none := by
  have hf := Ev.Formed.announced e
  have hr : e.toState.Raised e.announced.wcu.channels := by rw [Ev.announced_wcu]; exact Ev.reform_raised e
  have hb := Ev.announced_bus e
  have hh := Ev.announced_halted e
  have hst := Ev.Steady.announced e
  have hsus : e.announced.wcu.suspended = e.outputSuspended := by rw [Ev.announced_wcu, Ev.formed_wcu, Ev.reform_suspended]
  have hrun := Ev.announced_runs e
  rw [Ev.settled_of_kept e hk] at ht
  generalize e.announced = y at *
  have hsup : y.asv.supply = e.asv.supply := congrArg (·.supply) hst.keeps.asv
  simp only [Wcu.bus, Prod.mk.injEq] at hb
  have hy : ¬y.toState.BusHalted := fun x => h (hh.1 x)
  have hyv : y.wcu.pendingValve = none := hb.2.1.trans hv
  have hbz := Ev.formed_bus y.pumpChassis
  have hq := Ev.Quiet.pumpChassis y
  have hp : y.pumpChassis = match y.nextChannel with
      | some (c, ranking) => (y.setWcu { y.wcu with ranking := ranking }).sendChannel c
      | none => y := by
    unfold Ev.pumpChassis
    rw [if_neg (Ev.not_halted hy), hyv]
    all_goals rfl
  have hpv : y.pumpChassis.wcu.pendingValve = none := by
    rw [hp]
    split
    · rw [Ev.sendChannel_wcu]; exact hyv
    · exact hyv
  simp only [Wcu.bus, Prod.mk.injEq] at hbz
  rw [← ht] at hbz
  refine ⟨⟨y.wcu.channels, hr, fun hno => ?_, fun c ranking hc => ?_⟩, hbz.2.1.trans hpv⟩
  · rw [State.nextChannel_none hno] at hp
    dsimp only at hp
    have htx : e.wcu.tx = none := by
      cases hx : e.wcu.tx with
      | none => rfl
      | some f => exact absurd (.inl (by rw [hx]; rfl)) h
    rw [hp] at ht hbz
    exact ⟨hbz.1.trans (hb.1.trans htx), hbz.2.2.trans hb.2.2, by rw [ht, hf.again]⟩
  · have hch : y.toState.chooses y.wcu.channels c ranking := by
      unfold State.chooses at hc ⊢
      rw [hb.2.2, hst.stays.tbu]; exact hc
    rw [State.nextChannel_of_chooses hch] at hp
    dsimp only at hp
    have hw := Ev.sendChannel_wcu y c ranking
    rw [← hp] at hw
    obtain ⟨g1, g2⟩ := State.channelSent_congr (s := y.toState) (t := e.toState.withChannels y.wcu.channels) rfl hst.stays.tbu.symm
      hst.keeps.clock.symm c (y.sentPressure c) ranking
    rw [← hw] at g1 g2
    have hzf := hf.sent hq c _ ranking hw
    have hrz := Ev.reform_raised y.pumpChassis
    rw [← Ev.formed_wcu, ← ht] at hrz
    have hag := fun hz : y.pumpChassis.Formed => hz.again
    rw [← ht] at hag
    have hzs : y.pumpChassis.wcu.suspended = e.outputSuspended := by rw [hw]; exact hsus
    have hzr : y.pumpChassis.wcu.ranking = ranking := by rw [hw]; rfl
    have hzt := hq.stays.tbu.trans hst.stays.tbu
    have hzo := hq.toKeeps.outputSuspended.trans hst.toKeeps.outputSuspended
    generalize y.pumpChassis = z at *
    refine ⟨y.sentPressure c, ?_, hbz.1.trans g2.symm, hbz.2.2.trans hzr, ?_, ?_⟩
    · rcases y.sentPressure_spec c with hx | hx
      · exact .inl hx
      · refine .inr ⟨hx.1, hx.2.1, fun hk => ?_⟩
        refine (hx.2.2 (hsup.trans hk)).imp id fun ⟨tag, hs⟩ => hrun tag c hs
    · exact State.Raised.congr g1 hzs.symm (by rw [hzt]; rfl) (by rw [hzo]; rfl) hrz
    · intro hm
      rw [g1] at hm ⊢
      exact hag (hzf hm)

end

end Sys2Proof.Machine
end

