-- ==== Sys2Proof/Laws/Conditions.lean ====
section
/-! SUPPORT. The alert records: what the handing on of the conditions makes of them, what the conditions are read from, and what the closing
work of an event makes of both. -/

namespace Sys2Proof.Machine

/-- A condition handed on twice as it is changes nothing the second time. -/
theorem AlertRecord.handed_again (r : AlertRecord) (b : Bool) : (r.handed b).handed b = r.handed b := by
  by_cases h : r.flag = b <;> simp [AlertRecord.handed, h]

theorem AlertRecord.handed_same (r : AlertRecord) : r.handed r.flag = r := by simp [AlertRecord.handed]

section
variable (e : Ev)

/-! ## The handing on of conditions -/

/-- R174: one condition handed on. -/
theorem Ev.handCondition_alert (k : AlertKind) (b : Bool) (j : Fin 23) :
    (e.handCondition k b).apu.alerts[j] = if j = k.index then (e.apu.alerts[j]).handed b else e.apu.alerts[j] := by
  have hset (x : Bool) (n : Bool) :
      ((e.setApu { e.apu with alerts := e.apu.alerts.set k.index { flag := x, ack := false } }).noticeOf k.index n).reformLamp.apu.alerts[j] =
        if j = k.index then { flag := x, ack := false } else e.apu.alerts[j] := by
    rw [← alert_after_set]
    unfold Ev.noticeOf
    split <;> rfl
  unfold Ev.handCondition Ev.raiseAlert Ev.clearAlert AlertRecord.handed
  cases b
  · rw [if_neg Bool.false_ne_true]
    by_cases hf : e.apu.alerts[k.index].flag = true
    · rw [if_pos hf, hset]
      by_cases hj : j = k.index
      · subst hj; rw [if_pos rfl, if_pos rfl, hf, if_neg (by decide)]
      · rw [if_neg hj, if_neg hj]
    · rw [if_neg hf]
      by_cases hj : j = k.index
      · subst hj; rw [if_pos rfl, if_pos (Bool.eq_false_iff.2 hf)]
      · rw [if_neg hj]
  · rw [if_pos rfl]
    by_cases hf : e.apu.alerts[k.index].flag = true
    · rw [if_pos hf]
      by_cases hj : j = k.index
      · subst hj; rw [if_pos rfl, if_pos hf]
      · rw [if_neg hj]
    · rw [if_neg hf, hset]
      by_cases hj : j = k.index
      · subst hj; rw [if_pos rfl, if_pos rfl, if_neg hf]
      · rw [if_neg hj, if_neg hj]

/-- The records of the kinds that a list of conditions does not name. -/
theorem Ev.handList_other (l : List (AlertKind × Bool)) (j : Fin 23) (h : ∀ c ∈ l, c.1.index ≠ j) (e : Ev) :
    (l.foldl (fun acc c => acc.handCondition c.1 c.2) e).apu.alerts[j] = e.apu.alerts[j] := by
  induction l generalizing e with
  | nil => rfl
  | cons c l ih =>
    rw [List.foldl_cons, ih fun x hx => h x (List.mem_cons_of_mem _ hx), Ev.handCondition_alert,
      if_neg fun x => h c List.mem_cons_self x.symm]

/-- The records of the kinds that it names, each once. -/
theorem Ev.handList_alert (l : List (AlertKind × Bool)) (hn : (l.map (·.1.index)).Nodup) (c : AlertKind × Bool) (hc : c ∈ l) (e : Ev) :
    (l.foldl (fun acc c => acc.handCondition c.1 c.2) e).apu.alerts[c.1.index] = (e.apu.alerts[c.1.index]).handed c.2 := by
  induction l generalizing e with
  | nil => cases hc
  | cons d l ih =>
    rw [List.map_cons, List.nodup_cons] at hn
    rw [List.foldl_cons]
    rcases List.mem_cons.1 hc with h | h
    · subst h
      rw [Ev.handList_other l _ fun x hx y => hn.1 (List.mem_map.2 ⟨x, hx, y⟩), Ev.handCondition_alert, if_pos rfl]
    · rw [ih hn.2 h, Ev.handCondition_alert, if_neg fun x => hn.1 (List.mem_map.2 ⟨c, h, x⟩)]

theorem State.conditions_nodup (s : State) : (s.conditions.map (·.1.index)).Nodup := by
  show List.Nodup [(0 : Fin 23), 1, 3, 4, 6, 7, 8, 9, 10, 11, 12, 13, 14, 15, 16, 17, 19, 22]
  decide

/-- R174: the conditions handed on. -/
theorem Ev.handConditions_alert (c : AlertKind × Bool) (hc : c ∈ e.conditions) :
    e.handConditions.apu.alerts[c.1.index] = (e.apu.alerts[c.1.index]).handed c.2 :=
  Ev.handList_alert _ e.conditions_nodup c hc e

/-- A kind's condition has one value. -/
theorem State.conditions_unique {s : State} {k : AlertKind} {a b : Bool} (ha : (k, a) ∈ s.conditions) (hb : (k, b) ∈ s.conditions) :
    a = b := by
  have h : ∀ l : List (AlertKind × Bool), (l.map (·.1.index)).Nodup → (k, a) ∈ l → (k, b) ∈ l → a = b := by
    intro l hn h1 h2
    induction l with
    | nil => cases h1
    | cons d l ih =>
      rw [List.map_cons, List.nodup_cons] at hn
      rcases List.mem_cons.1 h1 with g1 | g1 <;> rcases List.mem_cons.1 h2 with g2 | g2
      · exact congrArg Prod.snd (g1.trans g2.symm)
      · subst g1; exact (hn.1 (List.mem_map.2 ⟨_, g2, rfl⟩)).elim
      · subst g2; exact (hn.1 (List.mem_map.2 ⟨_, g1, rfl⟩)).elim
      · exact ih hn.2 g1 g2
  exact h _ s.conditions_nodup ha hb

/-! ## What the conditions are read from -/

theorem State.conditions_congr {s t : State} (asv : t.asv.core = s.asv.core)
    (masks : ∀ c : Fin 6, t.wcu.channels[c].mask = s.wcu.channels[c].mask) (tbu : t.tbu = s.tbu) (entries : t.twu.entries = s.twu.entries)
    (rou : t.rou.core = s.rou.core) (axles : ∀ a : Fin 4, t.lap.axles[a].core = s.lap.axles[a].core)
    (restore : t.rst.restore = s.rst.restore) (writePos : t.rst.writePos = s.rst.writePos) (tooLong : t.lru.tooLong = s.lru.tooLong) :
    t.conditions = s.conditions := by
  have h1 : t.asv.breakaway = s.asv.breakaway := congrArg (·.breakaway) asv
  have h2 : t.asv.linkLost = s.asv.linkLost := congrArg (·.linkLost) asv
  have h3 : t.asv.fallen = s.asv.fallen := congrArg (·.fallen) asv
  have h4 : t.asv.airLost = s.asv.airLost := congrArg (·.airLost) asv
  have h5 : t.rou.sensorLost = s.rou.sensorLost := congrArg (·.sensorLost) rou
  have h6 (c : MaskCause) : t.anyMasked c = s.anyMasked c := by simp only [State.anyMasked, State.channelEntry, masks, tbu]
  have h7 : t.loadSensorStale = s.loadSensorStale := by
    have hs (a : Fin 4) : t.lap.axles[a].status = s.lap.axles[a].status := congrArg (·.status) (axles a)
    have hu (a : Fin 4) : t.lap.axles[a].silent = s.lap.axles[a].silent := congrArg (·.silent) (axles a)
    simp only [State.loadSensorStale, State.anyAxle, hs, hu, tbu]
  have h8 : t.overload = s.overload := by
    have hl (a : Fin 4) : t.lap.axles[a].lF = s.lap.axles[a].lF := congrArg (·.lF) (axles a)
    simp only [State.overload, State.anyAxle, hl, tbu]
  have h9 : t.storeFull = s.storeFull := by simp only [State.storeFull, State.restoring, restore, writePos]
  have h10 : t.evaluatedEntries = s.evaluatedEntries := by
    simp only [State.evaluatedEntries, State.boundEntries, State.evaluated, entries, tbu]
  have h11 : (t.boundEntries.any fun b => t.countsDeflated b) = s.boundEntries.any fun b => s.countsDeflated b := by
    simp only [State.boundEntries, State.countsDeflated, State.evaluated, entries, tbu]
  simp only [State.conditions, State.anyTyre, State.anySpare, h1, h2, h3, h4, h5, h6, h7, h8, h9, h10, h11, tooLong]

/-- A quiet operation that masks no channel leaves the conditions. -/
theorem Ev.Steady.conditions {a b : Ev} (h : Ev.Steady a b) (masks : ∀ c : Fin 6, b.wcu.channels[c].mask = a.wcu.channels[c].mask) :
    b.conditions = a.conditions :=
  State.conditions_congr h.keeps.asv masks h.stays.tbu (congrArg (·.entries) h.stays.twu) h.stays.rou h.stays.axles
    (congrArg Rst.restore h.rst) (congrArg Rst.writePos h.rst) (congrArg (·.tooLong) h.lru)

theorem Ev.formed_mask (c : Fin 6) : e.formed.wcu.channels[c].mask = e.wcu.channels[c].mask := by
  rw [Ev.formed_wcu, Channel.mask_of_core (Ev.reform_channels e c).1]
  exact State.channelFollows_mask _ _

theorem Ev.formed_conditions : e.formed.conditions = e.conditions := (Ev.Steady.formed e).conditions e.formed_mask

theorem Ev.handConditions_conditions : e.handConditions.conditions = e.conditions :=
  (Ev.Quiet.handConditions e).toSteady.conditions fun c => by rw [Ev.handConditions_wcu]

/-! ## The operations that leave the alert records -/

theorem Ev.followSuspension_apu : e.followSuspension.apu = e.apu := by
  unfold Ev.followSuspension; repeat' split
  all_goals rfl

theorem Ev.startService_apu (t : Tag) (a : ServiceArgs) : (e.startService t a).apu = e.apu := by
  unfold Ev.startService Ev.startTrain; dsimp only; split <;> rfl

theorem Ev.followService_apu : e.followService.apu = e.apu := by
  unfold Ev.followService; split
  · rfl
  · split
    · rw [Ev.startService_apu]; rfl
    · rfl
  · split
    · rfl
    · split <;> rfl

theorem Ev.followAutoPark_apu : e.followAutoPark.apu = e.apu := by
  unfold Ev.followAutoPark; repeat' split
  all_goals rfl

theorem Ev.testHold_apu : e.testHold.apu = e.apu := by
  unfold Ev.testHold; repeat' split
  all_goals rfl

theorem Ev.formThresholds_apu : e.formThresholds.apu = e.apu := by
  unfold Ev.formThresholds; dsimp only; split
  · rw [Ev.testHold_apu]; rfl
  · rfl

theorem Ev.formTotal_apu : e.formTotal.apu = e.apu := by
  unfold Ev.formTotal; dsimp only; split
  · rfl
  · rw [Ev.formThresholds_apu]; rfl

theorem Ev.formDeflated_apu : e.formDeflated.apu = e.apu := by
  unfold Ev.formDeflated; dsimp only; split
  · rfl
  · rw [Ev.formThresholds_apu]; rfl

theorem Ev.formPressures_apu : e.formPressures.apu = e.apu := rfl
theorem Ev.formSpeed_apu : e.formSpeed.apu = e.apu := rfl
theorem Ev.setActivity_apu : e.setActivity.apu = e.apu := rfl

theorem Ev.formed_apu : e.formed.apu = e.apu := by
  unfold Ev.formed Ev.reform Ev.formStates
  rw [Ev.setActivity_apu, Ev.formPressures_apu, Ev.formDeflated_apu, Ev.formTotal_apu, Ev.followAutoPark_apu, Ev.followService_apu,
    Ev.formSpeed_apu, Ev.followSuspension_apu]

theorem Ev.sendChannel_apu (c : Fin 6) : (e.sendChannel c).apu = e.apu := by
  unfold Ev.sendChannel; dsimp only
  generalize (if e.wcu.channels[c].awaiting = true then e.wcu.channels[c].missCount + 1 else e.wcu.channels[c].missCount) = n
  split <;> rfl

theorem Ev.sendValve_apu (k : ValveKind) : (e.sendValve k).apu = e.apu := by
  unfold Ev.sendValve; dsimp only
  split
  · split <;> rfl
  · rfl

theorem Ev.pumpChassis_apu : e.pumpChassis.apu = e.apu := by
  unfold Ev.pumpChassis; split
  · rfl
  · split
    · exact Ev.sendValve_apu _ _
    · split
      · rw [Ev.sendChannel_apu]; rfl
      · rfl

/-! ## The closing work -/

/-- R63, R174: with no held insert performed, the closing work hands every condition on as it stands once everything is re-formed, and again as
it stands at the end of the event. -/
theorem Ev.react_alert (h : Ev.Kept e e.settled) (k : AlertKind) (before after : Bool) (hb : (k, before) ∈ e.conditions)
    (ha : (k, after) ∈ e.react.conditions) :
    e.react.apu.alerts[k.index] = ((e.apu.alerts[k.index]).handed before).handed after := by
  have h1 : e.settled.apu.alerts[k.index] = (e.apu.alerts[k.index]).handed before := by
    rw [Ev.settled_of_kept e h, Ev.formed_apu, Ev.pumpChassis_apu, Ev.announced,
      Ev.handConditions_alert _ (k, before) (by rw [Ev.formed_conditions]; exact hb), Ev.formed_apu]
  rw [Ev.react_eq] at ha ⊢
  generalize e.settled = a at h1 ha ⊢
  rw [Ev.handConditions_conditions] at ha
  rw [Ev.handConditions_alert _ (k, after) ha, ← h1, Ev.setRst_apu]

/-- With no held insert performed, the event alerts stay as they are. -/
theorem Ev.react_events (h : Ev.Kept e e.settled) (k : Fin 23) (hk : isEventAlert k = true) : e.react.apu.alerts[k] = e.apu.alerts[k] := by
  have hs := (Ev.Steady.settled e h).events k hk
  rw [Ev.react_eq]
  generalize e.settled = a at hs ⊢
  rw [(Ev.Quiet.handConditions _).events k hk, Ev.setRst_apu, hs]

end

end Sys2Proof.Machine
end

