-- ==== Sys2Proof/Laws/Hold.lean ====
section
/-! SUPPORT. The rollover unit's hold timer through the closing work of an event: re-forming the thresholds tests it in INTERVENE (R93), an
insertion that disables the unit stops it (R105), and nothing else touches it. -/

namespace Sys2Proof.Machine

/-- What the thresholds and the hold timer are read from: the rollover unit and the total load. -/
def State.roll (s : State) : Rou × Nat := (s.rou, s.lap.totalLoad)

theorem State.HoldFollows.congr {a b s t : State} (ha : a.roll = s.roll) (htbu : a.tbu = s.tbu) (hclock : a.clock = s.clock) (hb : b.roll = t.roll)
    (h : s.HoldFollows t) : a.HoldFollows b := by
  simp only [State.roll, Prod.mk.injEq] at ha hb
  simpa only [State.HoldFollows, State.holdAgainst, State.starting, ha.1, ha.2, hb.1, hb.2, htbu, hclock] using h

/-- The total load is read from what the closing work leaves of the load records. -/
theorem State.Stays.totalLoad {s t : State} (h : s.Stays t) :
    totalLoadOf t.tbu.active.axle t.lap.axles = totalLoadOf s.tbu.active.axle s.lap.axles := by
  have hc (a : Fin 4) (x : AxleEntry) : loadContribution x t.lap.axles[a] = loadContribution x s.lap.axles[a] := by
    have h1 : t.lap.axles[a].status = s.lap.axles[a].status := congrArg (·.status) (h.axles a)
    have h2 : t.lap.axles[a].lF = s.lap.axles[a].lF := congrArg (·.lF) (h.axles a)
    unfold loadContribution
    rw [h1, h2]
  unfold totalLoadOf
  simp only [hc, h.tbu]

/-- The deflated count is read from what it leaves of the entries. -/
theorem State.Stays.deflatedCount {s t : State} (h : s.Stays t) : t.deflatedCount = s.deflatedCount := by
  have he : t.twu.entries = s.twu.entries := congrArg (·.entries) h.twu
  simp only [State.deflatedCount, State.boundEntries, State.countsDeflated, State.evaluated, he, h.tbu]

section
variable (e : Ev)

/-! ## The thresholds -/

theorem Ev.testHold_eq : e.testHold = e.setRou { e.rou with holdTimer := e.holdAgainst e.rou.exitT } := by
  unfold Ev.testHold State.holdAgainst Rou.magnitude
  split
  · rfl
  · cases h : e.rou.holdTimer
    · rfl
    · next v =>
      show e = e.setRou { e.rou with holdTimer := some v }
      rw [← h]; rfl

theorem Ev.formThresholds_eq : e.formThresholds =
    e.setRou
      { e.rou.withThresholds e.rollTable e.lap.totalLoad with
        holdTimer :=
          if e.rou.state = .intervene then e.holdAgainst (e.rou.withThresholds e.rollTable e.lap.totalLoad).exitT else e.rou.holdTimer } := by
  unfold Ev.formThresholds; dsimp only
  by_cases h : e.rou.state = .intervene
  · rw [if_pos h, if_pos (show (e.setRou (e.rou.withThresholds e.rollTable e.lap.totalLoad)).rou.state = .intervene from h), Ev.testHold_eq]
    rfl
  · rw [if_neg h, if_neg (show ¬(e.setRou (e.rou.withThresholds e.rollTable e.lap.totalLoad)).rou.state = .intervene from h)]
    rfl

/-- R43: the total load is formed; a change tests the hold timer in INTERVENE. -/
theorem Ev.formTotal_spec :
    e.formTotal.lap.totalLoad = totalLoadOf e.tbu.active.axle e.lap.axles ∧
      (e.formTotal.lap.totalLoad = e.lap.totalLoad → e.formTotal.roll = e.roll) ∧
      (e.formTotal.lap.totalLoad ≠ e.lap.totalLoad → e.formTotal.rou.holdTimer =
        if e.rou.state = .intervene then e.holdAgainst e.formTotal.rou.exitT else e.rou.holdTimer) ∧
      e.formTotal.rou.state = e.rou.state ∧ e.formTotal.rou.lastSample = e.rou.lastSample ∧ e.formTotal.rou.k = e.rou.k := by
  unfold Ev.formTotal; dsimp only
  split
  · next h => exact ⟨h.symm, fun _ => rfl, fun x => absurd rfl x, rfl, rfl, rfl⟩
  · next h =>
    rw [Ev.formThresholds_eq]
    exact ⟨rfl, fun x => absurd x h, fun _ => rfl, rfl, rfl, rfl⟩

/-- R121: k is formed; a change tests the hold timer in INTERVENE. -/
theorem Ev.formDeflated_spec :
    e.formDeflated.rou.k = min 4 e.deflatedCount ∧ (e.formDeflated.rou.k = e.rou.k → e.formDeflated.roll = e.roll) ∧
      (e.formDeflated.rou.k ≠ e.rou.k → e.formDeflated.rou.holdTimer =
        if e.rou.state = .intervene then e.holdAgainst e.formDeflated.rou.exitT else e.rou.holdTimer) ∧
      e.formDeflated.rou.state = e.rou.state ∧ e.formDeflated.rou.lastSample = e.rou.lastSample ∧
      e.formDeflated.lap.totalLoad = e.lap.totalLoad := by
  unfold Ev.formDeflated; dsimp only
  split
  · next h => exact ⟨h.symm, fun _ => rfl, fun x => absurd rfl x, rfl, rfl, rfl⟩
  · next h =>
    rw [Ev.formThresholds_eq]
    exact ⟨rfl, fun x => absurd x h, fun _ => rfl, rfl, rfl, rfl⟩

/-- R93: the total load and k formed one after the other leave the hold timer as `State.HoldFollows` says. -/
theorem Ev.formBoth_hold : e.toState.HoldFollows e.formTotal.formDeflated.toState := by
  obtain ⟨-, hs, hc, hst, hl, hk⟩ := Ev.formTotal_spec e
  have hq := (Ev.Quiet.formTotal e)
  have htbu := hq.stays.tbu
  have hclock := hq.keeps.clock
  generalize e.formTotal = b at *
  obtain ⟨-, gs, gc, -, -, gt⟩ := Ev.formDeflated_spec b
  generalize b.formDeflated = d at *
  simp only [State.roll, Prod.mk.injEq] at hs gs
  unfold State.HoldFollows
  rw [gt, ← hk]
  by_cases h1 : b.lap.totalLoad = e.lap.totalLoad <;> by_cases h2 : d.rou.k = b.rou.k
  · rw [if_neg (by simp [h1, h2]), (gs h2).1, (hs h1).1]
  · rw [gc h2, hst]
    by_cases h3 : e.rou.state = .intervene
    · rw [if_pos ⟨h3, .inr h2⟩, if_pos h3]
      refine .inl ?_
      unfold State.holdAgainst State.starting
      rw [hl, (hs h1).1, htbu, hclock]
    · rw [if_neg fun x => h3 x.1, if_neg h3, (hs h1).1]
  · rw [(gs h2).1]
    by_cases h3 : e.rou.state = .intervene
    · rw [if_pos ⟨h3, .inl h1⟩, hc h1, if_pos h3]
      exact .inl rfl
    · rw [if_neg fun x => h3 x.1, hc h1, if_neg h3]
  · have hb := hc h1
    rw [gc h2, hst]
    by_cases h3 : e.rou.state = .intervene
    · rw [if_pos ⟨h3, .inl h1⟩, if_pos h3]
      rw [if_pos h3] at hb
      unfold State.holdAgainst State.starting at hb ⊢
      rw [hl, htbu, hclock]
      by_cases h4 : d.rou.exitT ≤ e.rou.lastSample.natAbs
      · rw [if_pos h4, if_pos h4]; exact .inl rfl
      · rw [if_neg h4, if_neg h4]
        by_cases h5 : b.rou.exitT ≤ e.rou.lastSample.natAbs
        · rw [if_pos h5] at hb
          rw [hb]
          exact .inr ⟨h1, h2, Nat.lt_of_not_le h4, rfl⟩
        · rw [if_neg h5] at hb
          rw [hb]
          refine .inl ?_
          by_cases h6 : e.rou.holdTimer.isSome = true
          · rw [if_pos h6, if_pos h6]
          · rw [if_neg h6]; exact ite_self _
    · rw [if_neg fun x => h3 x.1, if_neg h3, hb, if_neg h3]

/-! ## The operations that leave the rollover unit and the total load -/

theorem Ev.followSuspension_roll : e.followSuspension.roll = e.roll := by
  unfold Ev.followSuspension; repeat' split
  all_goals rfl

theorem Ev.startService_roll (t : Tag) (a : ServiceArgs) : (e.startService t a).roll = e.roll := by
  unfold Ev.startService Ev.startTrain; dsimp only; split <;> rfl

theorem Ev.followService_roll : e.followService.roll = e.roll := by
  unfold Ev.followService; split
  · rfl
  · split
    · rw [Ev.startService_roll]; rfl
    · rfl
  · split
    · rfl
    · split <;> rfl

theorem Ev.followAutoPark_roll : e.followAutoPark.roll = e.roll := by
  unfold Ev.followAutoPark; repeat' split
  all_goals rfl

theorem Ev.setRst_roll (x : Rst) : (e.setRst x).roll = e.roll := rfl
theorem Ev.formSpeed_roll : e.formSpeed.roll = e.roll := rfl
theorem Ev.formPressures_roll : e.formPressures.roll = e.roll := rfl
theorem Ev.setActivity_roll : e.setActivity.roll = e.roll := rfl

theorem Ev.sendChannel_roll (c : Fin 6) : (e.sendChannel c).roll = e.roll := by
  unfold Ev.sendChannel; dsimp only
  generalize (if e.wcu.channels[c].awaiting = true then e.wcu.channels[c].missCount + 1 else e.wcu.channels[c].missCount) = n
  split <;> rfl

theorem Ev.sendValve_roll (k : ValveKind) : (e.sendValve k).roll = e.roll := by
  unfold Ev.sendValve; dsimp only
  split
  · split <;> rfl
  · rfl

theorem Ev.pumpChassis_roll : e.pumpChassis.roll = e.roll := by
  unfold Ev.pumpChassis; split
  · rfl
  · split
    · exact Ev.sendValve_roll _ _
    · split
      · rw [Ev.sendChannel_roll]; rfl
      · rfl

theorem Ev.handCondition_roll (k : AlertKind) (b : Bool) : (e.handCondition k b).roll = e.roll := by
  unfold Ev.handCondition Ev.raiseAlert Ev.clearAlert Ev.noticeOf
  repeat' split
  all_goals rfl

theorem Ev.handList_roll (l : List (AlertKind × Bool)) (e : Ev) :
    (l.foldl (fun acc c => acc.handCondition c.1 c.2) e).roll = e.roll := by
  induction l generalizing e with
  | nil => rfl
  | cons c l ih => rw [List.foldl_cons, ih, Ev.handCondition_roll]

theorem Ev.handConditions_roll : e.handConditions.roll = e.roll := Ev.handList_roll _ e

theorem Ev.occur_roll (k : AlertKind) : (e.occur k).roll = e.roll := by
  unfold Ev.occur Ev.raiseAlert Ev.noticeOf
  repeat' split
  all_goals rfl

theorem Ev.testWindows_roll : e.testWindows.roll = e.roll := by
  unfold Ev.testWindows Ev.closeLearn Ev.closeHalf; dsimp only
  repeat' split
  all_goals rfl

theorem Ev.moveTables_roll : e.moveTables.roll = e.roll := by
  have (l : List TableId) (t : Tables) (a : Ev) : (l.foldl (fun acc id => Ev.queueRecord acc (tableRecord t id)) a).roll = a.roll := by
    induction l generalizing a with
    | nil => rfl
    | cons i l ih => rw [List.foldl_cons, ih]; rfl
  unfold Ev.moveTables
  exact this _ _ _

/-! ## With no held insert performed -/

/-- What an event forms before the total load. -/
def Ev.beforeTotal : Ev := e.followSuspension.formSpeed.followService.followAutoPark

theorem Ev.beforeTotal_roll : e.beforeTotal.roll = e.roll := by
  unfold Ev.beforeTotal
  rw [Ev.followAutoPark_roll, Ev.followService_roll, Ev.formSpeed_roll, Ev.followSuspension_roll]

theorem Ev.Steady.beforeTotal : Ev.Steady e e.beforeTotal :=
  (((Ev.Quiet.followSuspension e).trans (.formSpeed _)).toSteady.trans (.followService _)).trans (Ev.Quiet.followAutoPark _).toSteady

theorem Ev.formed_roll : e.formed.roll = e.beforeTotal.formTotal.formDeflated.roll := by
  show e.reform.setActivity.roll = _
  rw [Ev.setActivity_roll]
  show (e.beforeTotal.formTotal.formDeflated).formPressures.roll = _
  rw [Ev.formPressures_roll]

theorem Ev.formed_hold : e.toState.HoldFollows e.formed.toState :=
  have hs := Ev.Steady.beforeTotal e
  (Ev.formBoth_hold e.beforeTotal).congr e.beforeTotal_roll.symm hs.stays.tbu.symm hs.keeps.clock.symm e.formed_roll

/-- The total load and k once they have been formed. -/
theorem Ev.formed_counts : e.formed.lap.totalLoad = totalLoadOf e.tbu.active.axle e.lap.axles ∧ e.formed.rou.k = min 4 e.deflatedCount := by
  have hs := Ev.Steady.beforeTotal e
  have hr := Ev.formed_roll e
  generalize e.beforeTotal = a at hs hr
  obtain ⟨h1, -⟩ := Ev.formTotal_spec a
  have hq := hs.trans (Ev.Quiet.formTotal a).toSteady
  generalize a.formTotal = b at h1 hq hr
  obtain ⟨h2, -, -, -, -, h3⟩ := Ev.formDeflated_spec b
  simp only [State.roll, Prod.mk.injEq] at hr
  rw [hr.1, hr.2, h3, h1, h2]
  exact ⟨hs.stays.totalLoad, congrArg _ hq.stays.deflatedCount⟩

/-- Forming once more, after nothing that the total load and k are read from has changed, leaves the rollover unit. -/
theorem Ev.formed_again (b : Ev) (h : e.toState.Stays b.toState) (hl : b.lap.totalLoad = totalLoadOf e.tbu.active.axle e.lap.axles)
    (hk : b.rou.k = min 4 e.deflatedCount) : b.formed.roll = b.roll := by
  have hs := Ev.Steady.beforeTotal b
  have ha := Ev.beforeTotal_roll b
  have hc := h.trans hs.stays
  rw [Ev.formed_roll]
  generalize b.beforeTotal = a at *
  simp only [State.roll, Prod.mk.injEq] at ha
  obtain ⟨h1, h2, -⟩ := Ev.formTotal_spec a
  have hg := h2 (by rw [h1, hc.totalLoad, ha.2, hl])
  have hd := hc.trans (Ev.Quiet.formTotal a).stays
  generalize a.formTotal = d at *
  simp only [State.roll, Prod.mk.injEq] at hg
  obtain ⟨h3, h4, -⟩ := Ev.formDeflated_spec d
  have hf := h4 (by rw [h3, hd.deflatedCount, hg.1, ha.1, hk])
  rw [hf]
  simp only [State.roll, hg.1, hg.2, ha.1, ha.2]

/-- R82, R93: with no held insert performed, the closing work of an event leaves the hold timer as `State.HoldFollows` says. -/
theorem Ev.react_hold (h : Ev.Kept e e.settled) : e.toState.HoldFollows e.react.toState := by
  have hr : e.react.roll = e.formed.roll := by
    rw [Ev.react_eq, Ev.handConditions_roll, Ev.setRst_roll, Ev.settled_of_kept e h]
    have hp : e.announced.pumpChassis.roll = e.formed.roll := by
      rw [Ev.pumpChassis_roll, Ev.announced, Ev.handConditions_roll]
    have hs := ((Ev.Steady.announced e).trans (Ev.Quiet.pumpChassis _).toSteady).stays
    obtain ⟨hl, hk⟩ := Ev.formed_counts e
    generalize e.announced.pumpChassis = b at hp hs ⊢
    generalize e.formed = a at *
    rw [Ev.formed_again e b hs, hp]
    · rw [← hl]; exact congrArg Prod.snd hp
    · rw [← hk]; exact congrArg (fun x => x.1.k) hp
  exact (Ev.formed_hold e).congr rfl rfl rfl hr

/-! ## A held insert performed -/

/-- Outside INTERVENE an event stays outside and at most stops the hold timer. -/
def Ev.Idles (a b : Ev) : Prop :=
  a.rou.state ≠ .intervene → b.rou.state ≠ .intervene ∧ (b.rou.holdTimer = a.rou.holdTimer ∨ b.rou.holdTimer = none)

theorem Ev.Idles.refl (a : Ev) : Ev.Idles a a := fun h => ⟨h, .inl rfl⟩

theorem Ev.Idles.trans {a b c : Ev} (h : Ev.Idles a b) (g : Ev.Idles b c) : Ev.Idles a c := fun x => by
  obtain ⟨h1, h2⟩ := h x
  obtain ⟨g1, g2⟩ := g h1
  refine ⟨g1, ?_⟩
  rcases g2 with g2 | g2
  · rw [g2]; exact h2
  · exact .inr g2

theorem Ev.Idles.of_roll {a b : Ev} (h : b.roll = a.roll) : Ev.Idles a b := fun x => by
  have hr : b.rou = a.rou := congrArg Prod.fst h
  rw [hr]; exact ⟨x, .inl rfl⟩

theorem Ev.Idles.formed : Ev.Idles e e.formed := by
  have hf := Ev.formed_hold e
  have hc := congrArg (·.state) (Ev.Steady.formed e).stays.rou
  generalize e.formed = a at hf hc ⊢
  intro h
  unfold State.HoldFollows at hf
  rw [if_neg fun x => h x.1] at hf
  exact ⟨fun x => h (hc.symm.trans x), .inl hf⟩

theorem Ev.Idles.formThresholds : Ev.Idles e e.formThresholds := fun h => by
  rw [Ev.formThresholds_eq, if_neg h]
  exact ⟨h, .inl rfl⟩

theorem Ev.Idles.formTotal : Ev.Idles e e.formTotal := by
  obtain ⟨-, hs, hc, hst, -⟩ := Ev.formTotal_spec e
  generalize e.formTotal = a at *
  intro h
  refine ⟨fun x => h (hst.symm.trans x), .inl ?_⟩
  by_cases hl : a.lap.totalLoad = e.lap.totalLoad
  · exact congrArg (fun x => x.1.holdTimer) (hs hl)
  · rw [hc hl, if_neg h]

theorem Ev.Idles.formDeflated : Ev.Idles e e.formDeflated := by
  obtain ⟨-, hs, hc, hst, -⟩ := Ev.formDeflated_spec e
  generalize e.formDeflated = a at *
  intro h
  refine ⟨fun x => h (hst.symm.trans x), .inl ?_⟩
  by_cases hk : a.rou.k = e.rou.k
  · exact congrArg (fun x => x.1.holdTimer) (hs hk)
  · rw [hc hk, if_neg h]

theorem Ev.Idles.insertRollover (b : Bool) : Ev.Idles e (e.insertRollover b) := by
  unfold Ev.insertRollover; split
  · exact fun _ => ⟨Stability.noConfusion, .inr rfl⟩
  · exact fun _ => ⟨Stability.noConfusion, .inl rfl⟩
  · exact .refl e

theorem Ev.Idles.insertLoads : Ev.Idles e e.insertLoads := by
  have h : Ev.Idles e e.formCaps.formTargets.formApportioned := .of_roll rfl
  unfold Ev.insertLoads; dsimp only
  generalize e.formCaps.formTargets.formApportioned = a at h ⊢
  refine (h.trans (.formTotal a)).trans ?_
  generalize a.formTotal = b
  exact .of_roll (by rw [Ev.handCondition_roll, Ev.handCondition_roll])

/-- R105: an insertion handed to every block. -/
theorem Ev.Idles.handInsertion (t : Tables) : Ev.Idles e (e.handInsertion t) := by
  have h1 : Ev.Idles e ((((e.insertAxles t).insertReadings t.axle).testWindows).insertChannels t.channel) :=
    .of_roll (show (((e.insertAxles t).insertReadings t.axle).testWindows).roll = _ by rw [Ev.testWindows_roll]; rfl)
  unfold Ev.handInsertion
  generalize (((e.insertAxles t).insertReadings t.axle).testWindows).insertChannels t.channel = a at h1 ⊢
  dsimp only
  have h2 := ((h1.trans (.insertLoads a)).trans (.formDeflated _)).trans (.formThresholds _)
  generalize a.insertLoads.formDeflated.formThresholds = b at h2 ⊢
  have h3 := h2.trans (.insertRollover b t.roll.enabled)
  generalize b.insertRollover t.roll.enabled = c at h3 ⊢
  have h4 := h3.trans (.formed c)
  unfold Ev.formed at h4
  generalize c.reform.setActivity = d at h4 ⊢
  exact h4.trans (.of_roll rfl)

theorem Ev.Idles.carryOut : Ev.Idles e e.carryOut := (Ev.Idles.of_roll e.moveTables_roll).trans (.handInsertion _ _)

theorem Ev.Idles.performInsertion (t : Tag) : Ev.Idles e (e.performInsertion t) := by
  have hf (r : Reason) (a b : Nat) : Ev.Idles e (e.failInsertion t r a b) :=
    .of_roll (show (e.occur .tableInsertFailed).roll = _ from Ev.occur_roll _ _)
  unfold Ev.performInsertion; split
  · exact hf _ _ _
  · have h := Ev.Idles.carryOut e
    generalize e.carryOut = a at h ⊢
    exact h.trans (.of_roll rfl)

theorem Ev.Idles.brakeRelease : Ev.Idles e e.brakeRelease := by
  unfold Ev.brakeRelease; split
  · have h := Ev.Idles.of_roll e.handConditions_roll
    generalize e.handConditions = a at h ⊢
    have g : Ev.Idles a ((a.setTbu { a.tbu with heldInsert := none }).setLru { a.lru with slotInsert := none }) := .of_roll rfl
    generalize (a.setTbu { a.tbu with heldInsert := none }).setLru { a.lru with slotInsert := none } = b at g ⊢
    exact (h.trans g).trans (.performInsertion b _)
  · exact .refl e

theorem Ev.Idles.settle : Ev.Idles e e.settle := by
  have h := Ev.Idles.formed e
  unfold Ev.formed at h
  unfold Ev.settle; dsimp only
  generalize e.reform = a at h ⊢
  split
  · exact h.trans (.brakeRelease _)
  · exact h

/-- R105: outside INTERVENE the closing work of an event at most stops the hold timer. -/
theorem Ev.Idles.react : Ev.Idles e e.react := by
  have h := Ev.Idles.settle e
  rw [Ev.react_eq]
  unfold Ev.settled
  generalize e.settle = a at h ⊢
  have g : Ev.Idles a a.handConditions.pumpChassis := .of_roll (by rw [Ev.pumpChassis_roll, Ev.handConditions_roll])
  generalize a.handConditions.pumpChassis = b at g ⊢
  have f := Ev.Idles.settle b
  generalize b.settle = c at f ⊢
  exact ((h.trans g).trans f).trans (.of_roll (by rw [Ev.handConditions_roll, Ev.setRst_roll]))

end

end Sys2Proof.Machine
end

