-- ==== Sys2Proof/Laws/Flush.lean ====
section
/-! SUPPORT. The sending of an event's frames: what it leaves, and what it puts on the tow link. -/

namespace Sys2Proof.Machine

theorem Apu.power_of_core {a b : Apu} (h : a.core = b.core) : a.power = b.power := by
  have : a.core.power = b.core.power := by rw [h]
  exact this

/-- R166: frames that a full forward queue drops are counted and set RELAY_OVERFLOW, which nothing else sets. -/
structure State.Drops (s t : State) : Prop where
  counts : s.lru.forwardOverflows ≤ 65535 →
    s.lru.forwardOverflows ≤ t.lru.forwardOverflows ∧ t.lru.forwardOverflows ≤ 65535
  dropped : t.lru.forwardOverflows ≠ s.lru.forwardOverflows → t.apu.alerts[AlertKind.relayOverflow.index].flag = true
  occurs : t.apu.alerts[AlertKind.relayOverflow.index].flag = true → s.apu.alerts[AlertKind.relayOverflow.index].flag = true ∨
    t.lru.forwardOverflows ≠ s.lru.forwardOverflows ∨ 65535 ≤ s.lru.forwardOverflows
  flag : s.apu.alerts[AlertKind.relayOverflow.index].flag = true → t.apu.alerts[AlertKind.relayOverflow.index].flag = true

theorem State.Drops.of_eq {s t : State} (h : t.lru.forwardOverflows = s.lru.forwardOverflows)
    (g : t.apu.alerts[AlertKind.relayOverflow.index] = s.apu.alerts[AlertKind.relayOverflow.index]) : s.Drops t :=
  ⟨fun x => by rw [h]; exact ⟨le_refl _, x⟩, fun x => absurd h x, fun x => .inl (g ▸ x), fun x => g ▸ x⟩

theorem State.Drops.trans {a b c : State} (h : a.Drops b) (g : b.Drops c) : a.Drops c := by
  have hn (x : a.lru.forwardOverflows ≤ 65535) := h.counts x
  refine ⟨fun x => ⟨(hn x).1.trans (g.counts (hn x).2).1, (g.counts (hn x).2).2⟩, fun x => ?_, fun x => ?_, fun x => g.flag (h.flag x)⟩
  · by_cases y : c.lru.forwardOverflows = b.lru.forwardOverflows
    · exact g.flag (h.dropped (y ▸ x))
    · exact g.dropped y
  · by_cases y : 65535 ≤ a.lru.forwardOverflows
    · exact .inr (.inr y)
    · obtain ⟨h1, h2⟩ := hn (by omega)
      obtain ⟨g1, _⟩ := g.counts h2
      rcases g.occurs x with z | z | z
      · rcases h.occurs z with w | w | w
        · exact .inl w
        · exact .inr (.inl (by omega))
        · exact absurd w y
      · exact .inr (.inl (by omega))
      · exact .inr (.inl (by omega))

/-- What the sending of an event's frames leaves. -/
structure State.Flushed (s t : State) : Prop where
  asv : t.asv = s.asv
  lap : t.lap = s.lap
  wcu : t.wcu = s.wcu
  rou : t.rou = s.rou
  twu : t.twu = s.twu
  tbu : t.tbu = s.tbu
  lru : t.lru.rearPart = s.lru.rearPart
  apu : t.apu.core = s.apu.core
  configured : t.apu.configured = s.apu.configured
  alerts : ∀ k : Fin 23, k ≠ AlertKind.relayOverflow.index → t.apu.alerts[k] = s.apu.alerts[k]
  drops : s.Drops t
  rst : t.rst = s.rst
  clock : t.clock = s.clock
  pending : t.pending = s.pending
  frames : s.towFrames <+: t.towFrames

theorem State.Flushed.refl (s : State) : s.Flushed s :=
  ⟨rfl, rfl, rfl, rfl, rfl, rfl, rfl, rfl, rfl, fun _ _ => rfl, .of_eq rfl rfl, rfl, rfl, rfl, List.prefix_rfl⟩

theorem State.Flushed.trans {a b c : State} (h : a.Flushed b) (g : b.Flushed c) : a.Flushed c :=
  ⟨g.asv.trans h.asv, g.lap.trans h.lap, g.wcu.trans h.wcu, g.rou.trans h.rou, g.twu.trans h.twu, g.tbu.trans h.tbu, g.lru.trans h.lru,
    g.apu.trans h.apu, g.configured.trans h.configured, fun k x => (g.alerts k x).trans (h.alerts k x), h.drops.trans g.drops,
    g.rst.trans h.rst, g.clock.trans h.clock, g.pending.trans h.pending, h.frames.trans g.frames⟩

/-- The event alerts that were set stay set. -/
theorem State.Flushed.flags {s t : State} (h : s.Flushed t) (k : Fin 23) (hk : s.apu.alerts[k].flag = true) :
    t.apu.alerts[k].flag = true := by
  by_cases x : k = AlertKind.relayOverflow.index
  · subst x; exact h.drops.flag hk
  · rw [h.alerts k x]; exact hk

theorem State.Flushed.conditions {s t : State} (h : s.Flushed t) : t.conditions = s.conditions :=
  State.conditions_congr (by rw [h.asv]) (fun c => by rw [h.wcu]) h.tbu (by rw [h.twu]) (by rw [h.rou]) (fun a => by rw [h.lap])
    (by rw [h.rst]) (by rw [h.rst]) (congrArg (·.tooLong) h.lru)

/-- The condition alerts are as they were. -/
theorem State.Flushed.alert {s t : State} (h : s.Flushed t) {k : AlertKind} {b : Bool} (hk : (k, b) ∈ s.conditions) :
    t.apu.alerts[k.index] = s.apu.alerts[k.index] :=
  h.alerts _ fun x => absurd (s.conditions_kind _ hk) (by rw [x]; decide)

theorem State.SameButTow.refl (s : State) : s.SameButTow s := rfl

theorem State.SameButTow.trans {a b c : State} (h : a.SameButTow b) (g : b.SameButTow c) : a.SameButTow c := by
  unfold State.SameButTow at *
  rw [← h, ← g]

theorem State.SameButTow.power {s t : State} (h : s.SameButTow t) : t.apu = s.apu := by unfold State.SameButTow at h; rw [← h]
theorem State.SameButTow.position {s t : State} (h : s.SameButTow t) : t.lru.position = s.lru.position := by
  unfold State.SameButTow at h; rw [← h]

theorem State.SameButTow.flushed {s t : State} (h : s.SameButTow t) (hf : s.towFrames <+: t.towFrames) : s.Flushed t := by
  have hr : t.lru.rearPart = s.lru.rearPart := by rw [← h]; rfl
  rw [State.SameButTow] at h
  exact ⟨by rw [← h], by rw [← h], by rw [← h], by rw [← h], by rw [← h], by rw [← h], hr, by rw [← h], by rw [← h],
    fun k x => by rw [← h], .of_eq (by rw [← h]) (by rw [← h]), by rw [← h], by rw [← h], by rw [← h], hf⟩

/-! ## One queueing -/

/-- A free tow transmitter takes the oldest frame: the frames on their way are the same. -/
theorem Ev.pumpTow_spec (e : Ev) :
    e.toState.SameButTow e.pumpTow.toState ∧ e.pumpTow.towFrames = e.towFrames ∧ e.pumpTow.answers = e.answers ∧
      e.pumpTow.notices = e.notices ∧ e.pumpTow.resetNow = e.resetNow ∧
      e.pumpTow.lru.forwardQueue.length ≤ e.lru.forwardQueue.length := by
  unfold Ev.pumpTow
  split
  · next f rest h1 h2 h3 =>
    refine ⟨rfl, ?_, rfl, rfl, rfl, ?_⟩
    · simp [State.towFrames, h1, h3]
    · simp [h3]
  · exact ⟨rfl, rfl, rfl, rfl, rfl, le_refl _⟩

/-- Frames that find room are queued whole. -/
theorem Ev.queueForward_room (e : Ev) (fs : List ForwardFrame) (h : e.lru.forwardQueue.length + fs.length ≤ forwardCapacity) :
    e.toState.SameButTow (e.queueForward fs).toState ∧ (e.queueForward fs).towFrames = e.towFrames ++ fs.map (·.frame) ∧
      (e.queueForward fs).answers = e.answers ∧ (e.queueForward fs).notices = e.notices ∧
      (e.queueForward fs).resetNow = e.resetNow ∧
      (e.queueForward fs).lru.forwardQueue.length ≤ e.lru.forwardQueue.length + fs.length := by
  have hp := Ev.pumpTow_spec (e.setLru { e.lru with forwardQueue := e.lru.forwardQueue ++ fs })
  unfold Ev.queueForward
  rw [if_pos h]
  refine ⟨?_, ?_, hp.2.2.1, hp.2.2.2.1, hp.2.2.2.2.1, ?_⟩
  · exact State.SameButTow.trans (b := (e.setLru { e.lru with forwardQueue := e.lru.forwardQueue ++ fs }).toState) rfl hp.1
  · rw [hp.2.1]; simp [State.towFrames]
  · have := hp.2.2.2.2.2; simpa using this

/-- R174: an event alert that occurs: nothing while its flag is set, and otherwise its record, the lamp, the alert line and a notice. -/
theorem Ev.raiseAlert_cases (e : Ev) (k : Fin 23) :
    e.apu.alerts[k].flag = true ∧ e.raiseAlert k = e ∨
      ∃ y z n, e.raiseAlert k =
        { e with
          apu := { e.apu with alerts := e.apu.alerts.set k { flag := true, ack := false }, lamp := y, alertLine := z }, notices := n } := by
  unfold Ev.raiseAlert Ev.noticeOf
  split
  · next h => exact .inl ⟨h, rfl⟩
  · split <;> exact .inr ⟨_, _, _, rfl⟩

/-- R166: frames that find no room are dropped and counted. -/
theorem Ev.dropForward_flushed (e : Ev) (x : Lru) (hr : x.rearPart = e.lru.rearPart) (ht : x.towTx = e.lru.towTx)
    (hq : x.forwardQueue = e.lru.forwardQueue)
    (hc : e.lru.forwardOverflows ≤ 65535 → e.lru.forwardOverflows ≤ x.forwardOverflows ∧ x.forwardOverflows ≤ 65535)
    (ho : x.forwardOverflows ≠ e.lru.forwardOverflows ∨ 65535 ≤ e.lru.forwardOverflows) :
    let e' := (e.setLru x).occur .relayOverflow
    e.toState.Flushed e'.toState ∧ e'.answers = e.answers ∧ e'.resetNow = e.resetNow := by
  have hf : (e.setLru x).towFrames = e.towFrames := by simp [State.towFrames, ht, hq]
  dsimp only
  unfold Ev.occur
  rcases Ev.raiseAlert_cases (e.setLru x) AlertKind.relayOverflow.index with ⟨h1, h2⟩ | ⟨y, z, n, h2⟩
  · rw [h2]
    exact ⟨⟨rfl, rfl, rfl, rfl, rfl, rfl, hr, rfl, rfl, fun _ _ => rfl, ⟨hc, fun _ => h1, fun _ => .inl h1, fun _ => h1⟩,
      rfl, rfl, rfl, hf ▸ List.prefix_rfl⟩, rfl, rfl⟩
  · have ha (k : Fin 23) := alert_after_set e.apu.alerts AlertKind.relayOverflow.index { flag := true, ack := false } k
    have hs := ha AlertKind.relayOverflow.index
    rw [if_pos rfl] at hs
    have hs' := congrArg (·.flag) hs
    rw [h2]
    exact ⟨⟨rfl, rfl, rfl, rfl, rfl, rfl, hr, rfl, rfl, fun k hk => (ha k).trans (if_neg hk),
      ⟨hc, fun _ => hs', fun _ => .inr ho, fun _ => hs'⟩, rfl, rfl, rfl, hf ▸ List.prefix_rfl⟩, rfl, rfl⟩

/-- Frames queued or dropped: what is left, whatever the room. -/
theorem Ev.queueForward_flushed (e : Ev) (fs : List ForwardFrame) (hfs : fs ≠ []) :
    e.toState.Flushed (e.queueForward fs).toState ∧ (e.queueForward fs).answers = e.answers ∧
      (e.queueForward fs).resetNow = e.resetNow := by
  by_cases h : e.lru.forwardQueue.length + fs.length ≤ forwardCapacity
  · obtain ⟨h1, h2, h3, _, h5, _⟩ := Ev.queueForward_room e fs h
    exact ⟨h1.flushed (by rw [h2]; exact List.prefix_append _ _), h3, h5⟩
  · unfold Ev.queueForward
    rw [if_neg h]
    have hn : 1 ≤ fs.length := List.length_pos_iff.2 hfs
    refine Ev.dropForward_flushed e _ rfl rfl rfl ?_ ?_
    · simp only [satAdd]; omega
    · simp only [satAdd]; omega

theorem Ev.foldForward_flushed {α : Type} (f : Ev → α → List ForwardFrame) (hf : ∀ e a, f e a ≠ []) (l : List α) (e : Ev) :
    e.toState.Flushed (l.foldl (fun acc a => acc.queueForward (f acc a)) e).toState := by
  induction l generalizing e with
  | nil => exact .refl _
  | cons a l ih => exact (Ev.queueForward_flushed e (f e a) (hf e a)).1.trans (ih _)

/-! ## The end of an event -/

/-- R168: an answer has a frame at least. -/
theorem Answer.frames_ne_nil (position : Nat) (a : Answer) : a.frames position ≠ [] := List.cons_ne_nil _ _

theorem Ev.queueAnswers_flushed (e : Ev) : e.toState.Flushed e.queueAnswers.toState :=
  Ev.foldForward_flushed (fun (acc : Ev) (a : Answer) => a.frames acc.lru.position) (fun _ a => a.frames_ne_nil _) e.answers
    { e with answers := [] }

theorem Ev.queueNotices_flushed (e : Ev) : e.toState.Flushed e.queueNotices.toState :=
  Ev.foldForward_flushed (fun (acc : Ev) (n : Notice) => [n.frame acc.lru.position]) (fun _ _ => List.cons_ne_nil _ _) e.notices
    { e with notices := [] }

theorem Ev.flush_flushed (e : Ev) : e.toState.Flushed e.flush := by
  unfold Ev.flush
  split
  · exact ((Ev.queueAnswers_flushed e).trans (Ev.queueNotices_flushed _)).trans (Ev.queueNotices_flushed _)
  · exact .refl _

/-- R172: outside RUN nothing is queued forward. -/
theorem Ev.flush_quiet (e : Ev) (h : e.apu.power ≠ .run) : e.flush = e.toState := by
  unfold Ev.flush; rw [if_neg h]

/-- What an event leaves of the frames on their way, when all that precedes the sending of its frames leaves the forward queue, the tow
transmitter, the count of drops, RELAY_OVERFLOW and the power state. -/
theorem Ev.flush_forwards (s : State) (a : Ev) (hq : a.lru.core = s.lru.core) (hp : a.apu.power = s.apu.power)
    (ha : a.apu.alerts[AlertKind.relayOverflow.index] = s.apu.alerts[AlertKind.relayOverflow.index]) : s.Forwards a.flush := by
  have h1 : a.lru.forwardQueue = s.lru.forwardQueue := congrArg (·.forwardQueue) hq
  have h2 : a.lru.towTx = s.lru.towTx := congrArg (·.towTx) hq
  have h3 : a.lru.forwardOverflows = s.lru.forwardOverflows := congrArg (·.forwardOverflows) hq
  have ht : a.towFrames = s.towFrames := by unfold State.towFrames; rw [h1, h2]
  have hf := Ev.flush_flushed a
  have hd : s.Drops a.flush := (State.Drops.of_eq h3 ha).trans hf.drops
  exact ⟨ht ▸ hf.frames, fun hr => by rw [Ev.flush_quiet a (hp ▸ hr)]; exact ⟨ht, h3⟩, hd.counts, hd.dropped, hd.occurs⟩

/-- The frames of the answers of an event, in order. -/
def Ev.answersFrames (e : Ev) : List ForwardFrame := e.answers.flatMap fun a => a.frames e.lru.position

theorem Ev.foldAnswers_spec (l : List Answer) (e : Ev)
    (h : e.lru.forwardQueue.length + (l.flatMap fun a => a.frames e.lru.position).length ≤ forwardCapacity) :
    let e' := l.foldl (fun acc a => acc.queueForward (a.frames acc.lru.position)) e
    e.toState.SameButTow e'.toState ∧ e'.towFrames = e.towFrames ++ (l.flatMap fun a => a.frames e.lru.position).map (·.frame) ∧
      e'.answers = e.answers ∧ e'.notices = e.notices := by
  induction l generalizing e with
  | nil => simp [State.SameButTow]
  | cons a l ih =>
    simp only [List.flatMap_cons, List.length_append] at h
    obtain ⟨h1, h2, h3, h4, _, h6⟩ := Ev.queueForward_room e (a.frames e.lru.position) (by omega)
    have hp := h1.position
    obtain ⟨g1, g2, g3, g4⟩ := ih (e.queueForward (a.frames e.lru.position)) (by rw [hp]; omega)
    refine ⟨h1.trans g1, ?_, g3.trans h3, g4.trans h4⟩
    simp only [List.foldl_cons, List.flatMap_cons, List.map_append]
    rw [g2, h2, hp, List.append_assoc]

/-- In RUN the answers of an event go forward first, in order, if they find room. -/
theorem Ev.flush_sends (e : Ev) (hr : e.apu.power = .run) (h : e.toState.roomForward e.answersFrames.length) :
    e.toState.Sends e.flush (e.answersFrames.map (·.frame)) := by
  have hs := Ev.foldAnswers_spec e.answers { e with answers := [] } h
  have : e.queueAnswers.towFrames = e.towFrames ++ e.answersFrames.map (·.frame) := hs.2.1
  unfold State.Sends Ev.flush
  rw [if_pos hr, ← this]
  exact ((Ev.queueNotices_flushed _).trans (Ev.queueNotices_flushed _)).frames

/-- In RUN an event that produces no ALERT frame sends its answers and changes nothing else, if they find room. -/
theorem Ev.flush_answers (e : Ev) (hr : e.apu.power = .run) (hn : e.notices = [])
    (h : e.toState.roomForward e.answersFrames.length) : e.toState.Answers e.flush (e.answersFrames.map (·.frame)) := by
  obtain ⟨h1, h2, _, h4⟩ := Ev.foldAnswers_spec e.answers { e with answers := [] } h
  have hq : e.queueAnswers.queueNotices.queueNotices.toState = e.queueAnswers.toState := by
    have : e.queueAnswers.notices = [] := by rw [← hn]; exact h4
    unfold Ev.queueNotices
    rw [this]; simp only [List.foldl_nil]
  unfold State.Answers Ev.flush
  rw [if_pos hr, hq]
  exact ⟨h2, h1⟩

/-- With nothing to send, the event's state is the next state. -/
theorem Ev.flush_nothing (e : Ev) (ha : e.answers = []) (hn : e.notices = []) : e.flush = e.toState := by
  unfold Ev.flush Ev.queueAnswers Ev.queueNotices
  split
  · simp [ha, hn]
  · rfl

/-- An event without the commanded reset ends in a next state: its flush. -/
theorem Ev.conclude_flush (e : Ev) (h : e.resetNow = false) : e.conclude = .next e.flush := by
  unfold Ev.conclude; simp [h]

/-- An event always ends in a next state. -/
theorem Ev.conclude_next (e : Ev) : ∃ t, e.conclude = .next t := ⟨_, rfl⟩

theorem Lru.core_of_rearPart {a b : Lru} (h : a.rearPart = b.rearPart) : a.core.rearPart = b.core.rearPart := by
  simp only [Lru.rearPart, Lru.core, Lru.mk.injEq] at h ⊢; tauto

/-- What the sending of an event's frames leaves, as the statements say it. -/
theorem State.Flushed.keeps {s t : State} (h : s.Flushed t) : s.Keeps t :=
  ⟨by rw [h.asv], .inl (by rw [h.asv]), Lru.core_of_rearPart h.lru, h.apu, by rw [h.rst], by rw [h.twu], by rw [h.twu], by rw [h.twu],
    h.clock, h.pending, fun k _ hf => h.flags k hf, fun k hk hf => by
      rw [h.alerts k fun x => by rw [x] at hk; revert hk; decide] at hf; exact hf⟩

theorem State.Flushed.stays {s t : State} (h : s.Flushed t) : s.Stays t :=
  ⟨h.configured, h.tbu, by rw [h.twu], by rw [h.rou], fun a => by rw [h.lap], by rw [h.wcu]⟩

theorem State.Flushed.rests {s t : State} (h : s.Flushed t) : s.Rests t := ⟨by rw [h.wcu], by rw [h.wcu], h.lru⟩

/-- What the closing work of an event and the sending of its frames make of the state that the event's own effect leaves, whatever answers
are added after the closing work. -/
theorem Ev.react_flush_closes (e a : Ev) (ha : a.toState = e.react.toState) : e.toState.ClosesTo a.flush := by
  have hf := Ev.flush_flushed a
  rw [ha] at hf
  have hw : a.flush.wcu = e.settled.wcu := by rw [hf.wcu, Ev.react_wcu]
  have hb : a.flush.wcu.bus = e.settled.wcu.bus := by rw [hw]
  have hk : e.toState.NotReleased a.flush → Ev.Kept e e.settled := by
    unfold State.NotReleased Ev.Kept
    rw [hf.tbu, Ev.react_tbu]
    exact id
  have hK := Ev.Keeps.react e
  refine ⟨hK.keeps.trans hf.keeps, fun hi => (Ev.react_stays e (hk hi)).trans hf.stays,
    fun hc => (Ev.react_rests e hc.1 hc.2).1.trans hf.rests, fun hc => (Ev.react_runs e hc).trans hf.rests,
    fun hi => hf.rst.trans (Ev.react_rst e (hk hi)), fun hh => ?_, fun hi hh => ?_, fun hi hh hv => Ev.settled_sends e (hk hi) hh hv _ hw,
    ?_, fun hi k before after hb hx => ?_, fun k hk1 hk2 hk3 => ?_, fun hh k hv => ?_,
    fun hi => (Ev.react_hold e (hk hi)).congr rfl rfl rfl (by unfold State.roll; rw [hf.rou, hf.lap]),
    fun hs => by rw [hf.rou]; exact (Ev.Idles.react e hs).2⟩
  · rw [Ev.settled_bus_halted e hh] at hb
    exact ⟨(Prod.mk.inj hb).1, (Prod.mk.inj (Prod.mk.inj hb).2).1⟩
  · rw [hw]
    exact Ev.settled_channels e (hk hi) hh
  · refine Ev.flush_forwards _ a (by rw [ha]; exact hK.lru) (by rw [ha]; exact Apu.power_of_core hK.keeps.apu) ?_
    rw [ha]; exact hK.occurrences _ (by decide) (by decide)
  · rw [hf.conditions] at hx
    rw [hf.alert hx]
    exact Ev.react_alert e (hk hi) k before after hb hx
  · rw [hf.alerts k hk2]
    rcases hk3 with x | x
    · rw [hK.occurrences k hk1 x]
    · rw [Ev.react_events e (hk x) k hk1]
  · rw [Ev.settled_bus_valve e hh k hv] at hb
    exact ⟨(Prod.mk.inj hb).1, (Prod.mk.inj (Prod.mk.inj hb).2).1⟩

/-- An event whose own effect is `e` ends in a next state that the closing work makes of it. -/
theorem Ev.react_closes (e : Ev) (h : e.resetNow = false) : ∃ t, e.react.conclude = .next t ∧ e.toState.ClosesTo t :=
  ⟨_, Ev.conclude_flush _ ((Ev.Keeps.react e).resetNow.trans h), Ev.react_flush_closes e _ rfl⟩

/-- The first answers of an event go forward first, if they find room. -/
theorem Ev.queueAnswers_first (a : Ev) (pre more : List Answer) (h : a.answers = pre ++ more)
    (hr : a.lru.forwardQueue.length + (pre.flatMap fun x => x.frames a.lru.position).length ≤ forwardCapacity) :
    a.towFrames ++ (pre.flatMap fun x => x.frames a.lru.position).map (·.frame) <+: a.queueAnswers.towFrames := by
  have hb : ∃ b : Ev, b = { a with answers := [] } ∧ b.lru = a.lru ∧ b.towFrames = a.towFrames := ⟨_, rfl, rfl, rfl⟩
  obtain ⟨b, hb, hl, ht⟩ := hb
  unfold Ev.queueAnswers
  rw [h, List.foldl_append, ← hb, ← ht, ← hl]
  rw [← hl] at hr
  have hs := (Ev.foldAnswers_spec pre b hr).2.1
  rw [← hs]
  exact (Ev.foldForward_flushed (fun (acc : Ev) (x : Answer) => x.frames acc.lru.position) (fun _ x => x.frames_ne_nil _) more _).frames

/-- An event's own answers go forward first, if they find room, whatever else its closing work answers. -/
theorem Ev.react_sends_first (e a : Ev) (ha : a.toState = e.react.toState) (pre more : List Answer) (hans : a.answers = pre ++ more)
    (hr : e.apu.power = .run) (h : e.toState.roomForward (pre.flatMap fun x => x.frames e.lru.position).length) :
    e.toState.Sends a.flush ((pre.flatMap fun x => x.frames e.lru.position).map (·.frame)) := by
  have hk := Ev.Keeps.react e
  generalize e.react = b at *
  have hal : a.lru = b.lru := by rw [ha]
  have hpow : a.apu.power = .run := by rw [ha]; exact (Apu.power_of_core hk.keeps.apu).trans hr
  have hq : b.lru.forwardQueue = e.lru.forwardQueue := show b.lru.core.forwardQueue = e.lru.core.forwardQueue by rw [hk.lru]
  have htx : b.lru.towTx = e.lru.towTx := show b.lru.core.towTx = e.lru.core.towTx by rw [hk.lru]
  have hp : b.lru.position = e.lru.position := show b.lru.core.position = e.lru.core.position by rw [hk.lru]
  have ht : a.towFrames = e.towFrames := by unfold State.towFrames; rw [hal, hq, htx]
  have hfirst := Ev.queueAnswers_first a pre more hans (by rw [hal, hq, hp]; exact h)
  rw [ht, hal, hp] at hfirst
  unfold State.Sends Ev.flush
  rw [if_pos hpow]
  exact hfirst.trans ((Ev.queueNotices_flushed _).trans (Ev.queueNotices_flushed _)).frames

theorem Ev.react_sends (e : Ev) (hr : e.apu.power = .run) (h : e.toState.roomForward e.answersFrames.length) :
    e.toState.Sends e.react.flush (e.answersFrames.map (·.frame)) := by
  obtain ⟨more, hans⟩ := (Ev.Keeps.react e).answers
  exact Ev.react_sends_first e _ rfl e.answers more hans.symm hr h

/-- With nothing held or running, the answers added after the closing work go forward right behind the event's own. -/
theorem Ev.react_sends_last (e a : Ev) (more : List Answer) (ha : a.toState = e.react.toState) (hm : a.answers = e.react.answers ++ more)
    (hc : e.toState.Calm) (hr : e.apu.power = .run)
    (h : e.toState.roomForward ((e.answers ++ more).flatMap fun x => x.frames e.lru.position).length) :
    e.toState.Sends a.flush (((e.answers ++ more).flatMap fun x => x.frames e.lru.position).map (·.frame)) := by
  rw [(Ev.react_rests e hc.1 hc.2).2.2] at hm
  exact Ev.react_sends_first e a ha (e.answers ++ more) [] (by rw [hm, List.append_nil]) hr h

/-! ## Events that only hand on conditions and begin a write -/

/-- `b` is `a` but for the alert records, the lamp, the alert line and the ALERT frames. -/
def Ev.AlertsOnly (a b : Ev) : Prop :=
  ∃ x y z n, b = { a with apu := { a.apu with alerts := x, lamp := y, alertLine := z }, notices := n }

theorem Ev.AlertsOnly.refl (a : Ev) : Ev.AlertsOnly a a := ⟨_, _, _, _, rfl⟩

theorem Ev.AlertsOnly.trans {a b c : Ev} (h : Ev.AlertsOnly a b) (g : Ev.AlertsOnly b c) : Ev.AlertsOnly a c := by
  obtain ⟨x, y, z, n, rfl⟩ := h
  obtain ⟨x', y', z', n', rfl⟩ := g
  exact ⟨x', y', z', n', rfl⟩

theorem Ev.handCondition_only (a : Ev) (k : AlertKind) (b : Bool) : Ev.AlertsOnly a (a.handCondition k b) := by
  unfold Ev.handCondition Ev.raiseAlert Ev.clearAlert Ev.noticeOf
  repeat' split
  all_goals exact ⟨_, _, _, _, rfl⟩

theorem Ev.handConditions_only (a : Ev) : Ev.AlertsOnly a a.handConditions := by
  have (l : List (AlertKind × Bool)) (e : Ev) : Ev.AlertsOnly e (l.foldl (fun acc c => acc.handCondition c.1 c.2) e) := by
    induction l generalizing e with
    | nil => exact .refl e
    | cons c l ih => exact (Ev.handCondition_only e c.1 c.2).trans (ih _)
  exact this _ a

/-- An event that hands on conditions, begins a write and sends its frames. -/
theorem Ev.record_hands (e : Ev) (h : e.resetNow = false) : ∃ t, e.record.conclude = .next t ∧ e.toState.HandsTo t := by
  unfold Ev.record
  rw [Ev.beginWrite_eq]
  have hx : ∃ a : Ev, a = e.setRst e.rst.begun ∧ a.apu = e.apu ∧ a.lru = e.lru ∧ a.resetNow = e.resetNow := ⟨_, rfl, rfl, rfl, rfl⟩
  obtain ⟨a, hx, hap, hl, hr⟩ := hx
  rw [← hx]
  have ho := Ev.handConditions_only a
  have hev := (Ev.Quiet.handConditions a).events
  have hc := Ev.handConditions_alert a
  have hcc := Ev.handConditions_conditions a
  have hq := Ev.Quiet.handConditions a
  generalize a.handConditions = b at *
  have hf := Ev.flush_flushed b
  refine ⟨_, Ev.conclude_flush _ (hq.resetNow.trans (hr.trans h)), ?_⟩
  have hw : e.toState.Forwards b.flush :=
    Ev.flush_forwards _ b (by rw [hq.sameLru, hl]) (by rw [Apu.power_of_core hq.keeps.apu, hap])
      (by rw [hev _ (by decide), hap])
  have h1 : ∀ k : Fin 23, isEventAlert k = true → b.apu.alerts[k] = e.apu.alerts[k] := fun k hk => by rw [hev k hk, hap]
  have h2 : ∀ c ∈ b.flush.conditions, b.flush.apu.alerts[c.1.index] = (e.apu.alerts[c.1.index]).handed c.2 := fun c hm => by
    rw [hf.conditions] at hm
    rw [hf.alert hm, hc c (hcc ▸ hm), hap]
  subst hx
  obtain ⟨x, y, z, n, rfl⟩ := ho
  exact ⟨hf.asv, hf.lap, hf.wcu, hf.rou, hf.twu, hf.tbu, hf.lru, hf.apu, hf.configured,
    fun k hk hs => hf.flags k (by rw [h1 k hk]; exact hs), fun k hk hn => (hf.alerts k hn).trans (h1 k hk), h2, hw, hf.rst, hf.clock,
    hf.pending⟩

end Sys2Proof.Machine
end

