-- ==== Sys2Proof/Laws/Memory.lean ====
section
/-! SUPPORT. The store's memory: every operation keeps the canonical form, and what a byte reads as after a write. -/

namespace Sys2Proof.Machine

theorem Memory.wf_nil : Memory.wf [] := ⟨List.Pairwise.nil, by simp⟩

theorem Memory.wf_reset : Memory.wf State.reset.rst.memory := Memory.wf_nil

theorem Memory.wf_tail {c : Host.Cell} {m : Memory} (h : Memory.wf (c :: m)) : Memory.wf m :=
  ⟨h.1.tail, fun p hp => h.2 p (List.mem_cons_of_mem _ hp)⟩

/-- A cell of a memory after a write is one of the memory before, or the cell written. -/
theorem Memory.mem_write {m : Memory} {a : Nat} {v : Byte} {p : Host.Cell} (h : p ∈ m.write a v) :
    p ∈ m ∨ (p = (a, v) ∧ v ≠ Memory.blank) := by
  induction m with
  | nil =>
    unfold Memory.write at h
    split at h
    · exact absurd h (by simp)
    · next hv => exact .inr ⟨by simpa using h, hv⟩
  | cons c m ih =>
    unfold Memory.write at h
    split at h
    · split at h
      · exact .inl h
      · next hv =>
        rcases List.mem_cons.mp h with h | h
        · exact .inr ⟨h, hv⟩
        · exact .inl h
    · split at h
      · split at h
        · exact .inl (List.mem_cons_of_mem _ h)
        · next hv =>
          rcases List.mem_cons.mp h with h | h
          · exact .inr ⟨h, hv⟩
          · exact .inl (List.mem_cons_of_mem _ h)
      · rcases List.mem_cons.mp h with h | h
        · exact .inl (h ▸ List.mem_cons_self)
        · rcases ih h with h | h
          · exact .inl (List.mem_cons_of_mem _ h)
          · exact .inr h

/-- A byte written inside the store keeps the canonical form. -/
theorem Memory.wf_write {m : Memory} (h : Memory.wf m) {a : Nat} (ha : a < Memory.size) (v : Byte) : Memory.wf (m.write a v) := by
  refine ⟨?_, fun p hp => ?_⟩
  · induction m with
    | nil =>
      unfold Memory.write
      split
      · exact List.Pairwise.nil
      · exact List.pairwise_singleton _ _
    | cons c m ih =>
      have hc := List.pairwise_cons.mp h.1
      unfold Memory.write
      split
      · next hlt =>
        split
        · exact h.1
        · refine List.pairwise_cons.mpr ⟨fun p hp => ?_, h.1⟩
          rcases List.mem_cons.mp hp with rfl | hp
          · exact hlt
          · exact lt_trans hlt (hc.1 p hp)
      · next hge =>
        split
        · next heq =>
          split
          · exact hc.2
          · exact List.pairwise_cons.mpr ⟨fun p hp => by simpa [heq] using hc.1 p hp, hc.2⟩
        · next hne =>
          refine List.pairwise_cons.mpr ⟨fun p hp => ?_, ih (Memory.wf_tail h)⟩
          rcases Memory.mem_write hp with hp | ⟨rfl, _⟩
          · exact hc.1 p hp
          · show c.1 < a
            omega
  · rcases Memory.mem_write hp with hp | ⟨rfl, hv⟩
    · exact h.2 p hp
    · exact ⟨ha, hv⟩

/-- Bytes of a canonical memory below its first cell are not listed. -/
theorem Memory.read_below {m : Memory} {a : Nat} (h : ∀ p ∈ m, a < p.1) : m.read a = Memory.blank := by
  induction m with
  | nil => rfl
  | cons c m ih =>
    unfold Memory.read
    rw [if_neg (by have := h c List.mem_cons_self; omega)]
    exact ih fun p hp => h p (List.mem_cons_of_mem _ hp)

/-- What a byte reads as after a write: the value written there, and what it read before everywhere else. -/
theorem Memory.read_write {m : Memory} (h : Memory.wf m) (a b : Nat) (v : Byte) :
    (m.write a v).read b = if b = a then v else m.read b := by
  induction m with
  | nil =>
    unfold Memory.write
    by_cases hv : v = Memory.blank
    · rw [if_pos hv]; split <;> simp [Memory.read, hv]
    · rw [if_neg hv]; simp only [Memory.read]
      by_cases hb : b = a
      · simp [hb]
      · rw [if_neg (fun h => hb h.symm), if_neg hb]
  | cons c m ih =>
    have hc := List.pairwise_cons.mp h.1
    unfold Memory.write
    split
    · next hlt =>
      split
      · next hv =>
        by_cases hb : b = a
        · rw [if_pos hb, hb, hv]
          refine Memory.read_below fun p hp => ?_
          rcases List.mem_cons.mp hp with rfl | hp
          · exact hlt
          · exact lt_trans hlt (hc.1 p hp)
        · rw [if_neg hb]
      · by_cases hb : b = a
        · rw [if_pos hb, Memory.read, if_pos hb.symm]
        · rw [if_neg hb, Memory.read, if_neg (fun h => hb h.symm)]
    · next hge =>
      split
      · next heq =>
        split
        · next hv =>
          by_cases hb : b = a
          · rw [if_pos hb, hb, hv]
            exact Memory.read_below fun p hp => by rw [heq]; exact hc.1 p hp
          · rw [if_neg hb, Memory.read, if_neg (by omega)]
        · by_cases hb : b = a
          · rw [if_pos hb, Memory.read, if_pos hb.symm]
          · rw [if_neg hb, Memory.read, if_neg (fun h => hb h.symm), Memory.read, if_neg (by omega)]
      · next hne =>
        rw [Memory.read, Memory.read, ih (Memory.wf_tail h)]
        by_cases hb : b = a
        · rw [if_pos hb, if_pos hb, if_neg (by omega)]
        · rw [if_neg hb, if_neg hb]

theorem Memory.wf_foldWrite (n : Nat) (hn : n < 1024) (bytes : SlotBytes) (l : List (Fin 16)) :
    ∀ m : Memory, Memory.wf m → Memory.wf (l.foldl (fun acc b => acc.write (16 * n + b.val) bytes[b]) m) := by
  induction l with
  | nil => exact fun m h => h
  | cons b l ih =>
    intro m h
    exact ih _ (Memory.wf_write h (by have := b.isLt; unfold Memory.size; omega) _)

/-- A slot of the store written keeps the canonical form. -/
theorem Memory.wf_writeSlot {m : Memory} (h : Memory.wf m) {n : Nat} (hn : n < slotCount) (bytes : SlotBytes) :
    Memory.wf (m.writeSlot n bytes) := Memory.wf_foldWrite n hn bytes _ m h

theorem Memory.read_foldWrite_other (n : Nat) (hn : n < 1024) (bytes : SlotBytes) (a : Nat) (l : List (Fin 16)) :
    ∀ m : Memory, Memory.wf m → (∀ b ∈ l, a ≠ 16 * n + b.val) →
      (l.foldl (fun acc b => acc.write (16 * n + b.val) bytes[b]) m).read a = m.read a := by
  induction l with
  | nil => exact fun m _ _ => rfl
  | cons b l ih =>
    intro m h ha
    rw [List.foldl_cons, ih _ (Memory.wf_write h (by have := b.isLt; unfold Memory.size; omega) _)
      (fun x hx => ha x (List.mem_cons_of_mem _ hx)), Memory.read_write h, if_neg (ha b List.mem_cons_self)]

theorem Memory.read_foldWrite_same (n : Nat) (hn : n < 1024) (bytes : SlotBytes) (b : Fin 16) (l : List (Fin 16)) :
    ∀ m : Memory, Memory.wf m → l.Nodup → b ∈ l →
      (l.foldl (fun acc x => acc.write (16 * n + x.val) bytes[x]) m).read (16 * n + b.val) = bytes[b] := by
  induction l with
  | nil => exact fun m _ _ h => absurd h (by simp)
  | cons x l ih =>
    intro m h hnd hb
    have hx := List.nodup_cons.mp hnd
    have hw := Memory.wf_write h (a := 16 * n + x.val) (by have := x.isLt; unfold Memory.size; omega) bytes[x]
    rcases List.mem_cons.mp hb with rfl | hb
    · rw [List.foldl_cons, Memory.read_foldWrite_other n hn bytes _ l _ hw
        (fun y hy e => hx.1 (by have : y = b := Fin.ext (by omega)
                                exact this ▸ hy)), Memory.read_write h, if_pos rfl]
    · exact ih _ hw hx.2 hb

/-- What the bytes of the store read as after a slot is written. -/
theorem Memory.read_writeSlot {m : Memory} (h : Memory.wf m) {n : Nat} (hn : n < slotCount) (bytes : SlotBytes) (a : Nat) :
    (m.writeSlot n bytes).read a = if ha : a / 16 = n then bytes[a % 16]'(Nat.mod_lt _ (by omega)) else m.read a := by
  split
  · next ha =>
    have hb : a = 16 * n + (⟨a % 16, Nat.mod_lt _ (by omega)⟩ : Fin 16).val := by simp only []; omega
    have := Memory.read_foldWrite_same n hn bytes ⟨a % 16, Nat.mod_lt _ (by omega)⟩ (List.finRange 16) m h
      (List.nodup_finRange 16) (List.mem_finRange _)
    rw [← hb] at this
    exact this
  · next ha =>
    exact Memory.read_foldWrite_other n hn bytes a _ m h (fun b _ => by have := b.isLt; omega)

end Sys2Proof.Machine
end

