-- ==== Sys2Proof/Laws/Notices.lean ====
section
/-! SUPPORT. What an event does does not depend on the ALERT frames that it has produced already: one lemma per operation that a request of the
tow link may come to. A drop of a broadcast's copy produces an ALERT frame before the request is decided (R166, R177). -/

namespace Sys2Proof.Machine

/-- The event with ALERT frames produced before its own. -/
def Ev.behind (e : Ev) (ns : List Notice) : Ev := { e with notices := ns ++ e.notices }

section
variable (e : Ev) (ns : List Notice)

theorem Ev.behind_toState : (e.behind ns).toState = e.toState := rfl

theorem Ev.notice_behind (x : Notice) : (e.behind ns).notice x = (e.notice x).behind ns := by
  simp [Ev.behind, Ev.notice]

theorem Ev.noticeOf_behind (k : Fin 23) (b : Bool) : (e.behind ns).noticeOf k b = (e.noticeOf k b).behind ns := by
  unfold Ev.noticeOf
  rw [Ev.behind_toState, Ev.notice_behind]
  split <;> rfl

/-! ## Updates, answers and alerts -/

theorem Ev.setAsv_behind (x : Asv) : (e.behind ns).setAsv x = (e.setAsv x).behind ns := rfl

theorem Ev.setLap_behind (x : Lap) : (e.behind ns).setLap x = (e.setLap x).behind ns := rfl

theorem Ev.setWcu_behind (x : Wcu) : (e.behind ns).setWcu x = (e.setWcu x).behind ns := rfl

theorem Ev.setRou_behind (x : Rou) : (e.behind ns).setRou x = (e.setRou x).behind ns := rfl

theorem Ev.setTwu_behind (x : Twu) : (e.behind ns).setTwu x = (e.setTwu x).behind ns := rfl

theorem Ev.setTbu_behind (x : Tbu) : (e.behind ns).setTbu x = (e.setTbu x).behind ns := rfl

theorem Ev.setLru_behind (x : Lru) : (e.behind ns).setLru x = (e.setLru x).behind ns := rfl

theorem Ev.setApu_behind (x : Apu) : (e.behind ns).setApu x = (e.setApu x).behind ns := rfl

theorem Ev.setRst_behind (x : Rst) : (e.behind ns).setRst x = (e.setRst x).behind ns := rfl

theorem Ev.answer_behind (x : Answer) : (e.behind ns).answer x = (e.answer x).behind ns := rfl

theorem Ev.result_behind (t : Tag) (r : Result) : (e.behind ns).result t r = (e.result t r).behind ns := rfl

theorem Ev.refuse_behind (t : Tag) (r : Reason) : (e.behind ns).refuse t r = (e.refuse t r).behind ns := rfl

theorem Ev.complete_behind (t : Option Tag) (r : Result) : (e.behind ns).complete t r = (e.complete t r).behind ns := by
  cases t <;> rfl

theorem Ev.queueRecord_behind (r : Record) : (e.behind ns).queueRecord r = (e.queueRecord r).behind ns := rfl

theorem Ev.reformLamp_behind : (e.behind ns).reformLamp = e.reformLamp.behind ns := rfl

theorem Ev.raiseAlert_behind (k : Fin 23) : (e.behind ns).raiseAlert k = (e.raiseAlert k).behind ns := by
  unfold Ev.raiseAlert
  rw [Ev.behind_toState]
  simp only [Ev.setApu_behind, Ev.noticeOf_behind, Ev.reformLamp_behind]
  repeat' split
  all_goals rfl

theorem Ev.clearAlert_behind (k : Fin 23) : (e.behind ns).clearAlert k = (e.clearAlert k).behind ns := by
  unfold Ev.clearAlert
  rw [Ev.behind_toState]
  simp only [Ev.setApu_behind, Ev.noticeOf_behind, Ev.reformLamp_behind]
  repeat' split
  all_goals rfl

theorem Ev.occur_behind (k : AlertKind) : (e.behind ns).occur k = (e.occur k).behind ns := Ev.raiseAlert_behind _ _ _

theorem Ev.handCondition_behind (k : AlertKind) (b : Bool) : (e.behind ns).handCondition k b = (e.handCondition k b).behind ns := by
  unfold Ev.handCondition; split
  · exact Ev.raiseAlert_behind _ _ _
  · exact Ev.clearAlert_behind _ _ _

theorem Ev.foldl_behind {α : Type} (f : Ev → α → Ev) (h : ∀ (e : Ev) (x : α), f (e.behind ns) x = (f e x).behind ns) (l : List α) (e : Ev) :
    l.foldl f (e.behind ns) = (l.foldl f e).behind ns := by
  induction l generalizing e with
  | nil => rfl
  | cons x l ih => rw [List.foldl_cons, List.foldl_cons, h, ih]

theorem Ev.handConditions_behind : (e.behind ns).handConditions = e.handConditions.behind ns :=
  Ev.foldl_behind ns _ (fun e x => e.handCondition_behind ns x.1 x.2) _ e

theorem Ev.beginWrite_behind : (e.behind ns).beginWrite = e.beginWrite.behind ns := by
  unfold Ev.beginWrite
  rw [Ev.behind_toState]
  repeat' split
  all_goals rfl

theorem Ev.record_behind : (e.behind ns).record = e.record.behind ns := by
  unfold Ev.record; rw [Ev.beginWrite_behind, Ev.handConditions_behind]

/-! ## Forming -/

theorem Ev.formSpeed_behind : (e.behind ns).formSpeed = e.formSpeed.behind ns := rfl

theorem Ev.formContributions_behind : (e.behind ns).formContributions = e.formContributions.behind ns := rfl

theorem Ev.formFinals_behind : (e.behind ns).formFinals = e.formFinals.behind ns := rfl

theorem Ev.formCommands_behind : (e.behind ns).formCommands = e.formCommands.behind ns := rfl

theorem Ev.formCaps_behind : (e.behind ns).formCaps = e.formCaps.behind ns := rfl

theorem Ev.formTargets_behind : (e.behind ns).formTargets = e.formTargets.behind ns := rfl

theorem Ev.formApportioned_behind : (e.behind ns).formApportioned = e.formApportioned.behind ns := rfl

theorem Ev.setActivity_behind : (e.behind ns).setActivity = e.setActivity.behind ns := rfl

theorem Ev.formConfigured_behind : (e.behind ns).formConfigured = e.formConfigured.behind ns := rfl

theorem Ev.formPressures_behind : (e.behind ns).formPressures = e.formPressures.behind ns := by
  unfold Ev.formPressures
  rw [Ev.formCaps_behind, Ev.formTargets_behind, Ev.formApportioned_behind, Ev.formContributions_behind, Ev.formFinals_behind,
    Ev.formCommands_behind]

theorem Ev.followSuspension_behind : (e.behind ns).followSuspension = e.followSuspension.behind ns := by
  unfold Ev.followSuspension
  rw [Ev.behind_toState]
  repeat' split
  all_goals rfl

theorem Ev.startTrain_behind (n : Train) (t : Vector Bool 6) (p c l : Nat) (r : Bool) :
    (e.behind ns).startTrain n t p c l r = (e.startTrain n t p c l r).behind ns := by
  unfold Ev.startTrain
  rw [Ev.behind_toState]
  repeat' split
  all_goals rfl

theorem Ev.armTrain_behind (n : Train) : (e.behind ns).armTrain n = (e.armTrain n).behind ns := rfl

theorem Ev.startService_behind (t : Tag) (a : ServiceArgs) : (e.behind ns).startService t a = (e.startService t a).behind ns := by
  unfold Ev.startService; dsimp only
  rw [Ev.armTrain_behind, Ev.startTrain_behind]; rfl

theorem Ev.abortService_behind (t : Tag) (r : Result) : (e.behind ns).abortService t r = (e.abortService t r).behind ns := rfl

theorem Ev.endHeldService_behind (r : Result) : (e.behind ns).endHeldService r = (e.endHeldService r).behind ns := by
  unfold Ev.endHeldService
  rw [Ev.behind_toState]
  repeat' split
  all_goals rfl

theorem Ev.followService_behind : (e.behind ns).followService = e.followService.behind ns := by
  unfold Ev.followService
  rw [Ev.behind_toState]
  simp only [Ev.setLru_behind, Ev.startService_behind, Ev.abortService_behind]
  repeat' split
  all_goals rfl

theorem Ev.cancelService_behind : (e.behind ns).cancelService = e.cancelService.behind ns := by
  unfold Ev.cancelService
  rw [Ev.behind_toState]
  simp only [Ev.endHeldService_behind, Ev.abortService_behind]
  repeat' split
  all_goals rfl

theorem Ev.sendChannel_behind (c : Fin 6) : (e.behind ns).sendChannel c = (e.sendChannel c).behind ns := by
  unfold Ev.sendChannel; dsimp only
  rw [Ev.behind_toState]
  generalize (if e.wcu.channels[c].awaiting = true then e.wcu.channels[c].missCount + 1 else e.wcu.channels[c].missCount) = n
  split <;> rfl

theorem Ev.sendValve_behind (k : ValveKind) : (e.behind ns).sendValve k = (e.sendValve k).behind ns := by
  unfold Ev.sendValve; dsimp only
  rw [Ev.setWcu_behind, Ev.behind_toState, Ev.behind_toState]
  generalize e.setWcu _ = a
  split
  · split <;> rfl
  · rfl

theorem Ev.pumpChassis_behind : (e.behind ns).pumpChassis = e.pumpChassis.behind ns := by
  unfold Ev.pumpChassis
  rw [Ev.behind_toState]
  simp only [Ev.setWcu_behind, Ev.sendChannel_behind, Ev.sendValve_behind]
  repeat' split
  all_goals rfl

theorem Ev.followAutoPark_behind : (e.behind ns).followAutoPark = e.followAutoPark.behind ns := by
  unfold Ev.followAutoPark
  rw [Ev.behind_toState]
  repeat' split
  all_goals rfl

theorem Ev.testHold_behind : (e.behind ns).testHold = e.testHold.behind ns := by
  unfold Ev.testHold
  rw [Ev.behind_toState]
  repeat' split
  all_goals rfl

theorem Ev.formThresholds_behind : (e.behind ns).formThresholds = e.formThresholds.behind ns := by
  unfold Ev.formThresholds; dsimp only
  rw [Ev.behind_toState, Ev.setRou_behind, Ev.behind_toState, Ev.testHold_behind]
  split <;> rfl

theorem Ev.formTotal_behind : (e.behind ns).formTotal = e.formTotal.behind ns := by
  unfold Ev.formTotal; dsimp only
  rw [Ev.behind_toState]
  split
  · rfl
  · rw [Ev.setLap_behind, Ev.formThresholds_behind]

theorem Ev.formDeflated_behind : (e.behind ns).formDeflated = e.formDeflated.behind ns := by
  unfold Ev.formDeflated; dsimp only
  rw [Ev.behind_toState]
  split
  · rfl
  · rw [Ev.setTwu_behind, Ev.behind_toState, Ev.setRou_behind, Ev.formThresholds_behind]

theorem Ev.reform_behind : (e.behind ns).reform = e.reform.behind ns := by
  unfold Ev.reform Ev.formStates
  rw [Ev.followSuspension_behind, Ev.formSpeed_behind, Ev.followService_behind, Ev.followAutoPark_behind, Ev.formTotal_behind,
    Ev.formDeflated_behind, Ev.formPressures_behind]

/-! ## Insertion and the closing work -/

theorem Ev.closeLearn_behind (r : Result) (x : Reason) : (e.behind ns).closeLearn r x = (e.closeLearn r x).behind ns := by
  unfold Ev.closeLearn
  rw [Ev.behind_toState]
  repeat' split
  all_goals rfl

theorem Ev.closeHalf_behind (r : Result) : (e.behind ns).closeHalf r = (e.closeHalf r).behind ns := by
  unfold Ev.closeHalf
  rw [Ev.behind_toState]
  repeat' split
  all_goals rfl

theorem Ev.testWindows_behind : (e.behind ns).testWindows = e.testWindows.behind ns := by
  have h (a : Ev) : (match (a.behind ns).twu.half with
      | some h => if (a.behind ns).validBinding h.binding then a.behind ns else (a.behind ns).closeHalf .cancelled
      | none => a.behind ns) =
      (match a.twu.half with
      | some h => if a.validBinding h.binding then a else a.closeHalf .cancelled
      | none => a).behind ns := by
    rw [Ev.behind_toState, Ev.closeHalf_behind]
    repeat' split
    all_goals rfl
  unfold Ev.testWindows; dsimp only
  rw [Ev.behind_toState, Ev.closeLearn_behind]
  cases hl : e.twu.learn with
  | none => exact h e
  | some w =>
    by_cases hv : e.validBinding w.binding = true
    · simp only [if_pos hv]; exact h e
    · simp only [if_neg hv]; exact h _

theorem Ev.insertRollover_behind (b : Bool) : (e.behind ns).insertRollover b = (e.insertRollover b).behind ns := by
  unfold Ev.insertRollover
  rw [Ev.behind_toState]
  repeat' split
  all_goals rfl

theorem Ev.insertAxles_behind (t : Tables) : (e.behind ns).insertAxles t = (e.insertAxles t).behind ns := rfl

theorem Ev.insertChannels_behind (t : ChannelTable) : (e.behind ns).insertChannels t = (e.insertChannels t).behind ns := rfl

theorem Ev.insertReadings_behind (t : Vector AxleEntry 4) : (e.behind ns).insertReadings t = (e.insertReadings t).behind ns := by
  unfold Ev.insertReadings Ev.setReadings; rw [Ev.behind_toState, Ev.setTwu_behind]

theorem Ev.insertLoads_behind : (e.behind ns).insertLoads = e.insertLoads.behind ns := by
  unfold Ev.insertLoads; dsimp only
  rw [Ev.formCaps_behind, Ev.formTargets_behind, Ev.formApportioned_behind, Ev.formTotal_behind, Ev.behind_toState,
    Ev.handCondition_behind, Ev.handCondition_behind]

theorem Ev.handInsertion_behind (t : Tables) : (e.behind ns).handInsertion t = (e.handInsertion t).behind ns := by
  unfold Ev.handInsertion; dsimp only
  rw [Ev.insertAxles_behind, Ev.insertReadings_behind, Ev.testWindows_behind, Ev.insertChannels_behind, Ev.insertLoads_behind,
    Ev.formDeflated_behind, Ev.formThresholds_behind, Ev.insertRollover_behind, Ev.reform_behind, Ev.setActivity_behind,
    Ev.formConfigured_behind, Ev.reformLamp_behind]

theorem Ev.failInsertion_behind (t : Tag) (r : Reason) (a b : Nat) :
    (e.behind ns).failInsertion t r a b = (e.failInsertion t r a b).behind ns := by
  unfold Ev.failInsertion; rw [Ev.occur_behind, Ev.answer_behind]

theorem Ev.moveTables_behind : (e.behind ns).moveTables = e.moveTables.behind ns := by
  unfold Ev.moveTables; dsimp only
  rw [Ev.behind_toState, Ev.foldl_behind ns (fun acc id => Ev.queueRecord acc (tableRecord e.tbu.shadow id))
    (fun a id => a.queueRecord_behind ns _), Ev.behind_toState, Ev.setTbu_behind]

theorem Ev.carryOut_behind : (e.behind ns).carryOut = e.carryOut.behind ns := by
  unfold Ev.carryOut
  rw [Ev.moveTables_behind, Ev.handInsertion_behind, Ev.behind_toState]

theorem Ev.performInsertion_behind (t : Tag) : (e.behind ns).performInsertion t = (e.performInsertion t).behind ns := by
  unfold Ev.performInsertion
  rw [Ev.behind_toState]
  simp only [Ev.failInsertion_behind, Ev.carryOut_behind, Ev.result_behind]
  repeat' split
  all_goals rfl

theorem Ev.brakeRelease_behind : (e.behind ns).brakeRelease = e.brakeRelease.behind ns := by
  unfold Ev.brakeRelease
  rw [Ev.behind_toState]
  simp only [Ev.handConditions_behind, Ev.setTbu_behind, Ev.setLru_behind, Ev.performInsertion_behind, Ev.behind_toState]
  repeat' split
  all_goals rfl

theorem Ev.settle_behind : (e.behind ns).settle = e.settle.behind ns := by
  unfold Ev.settle; dsimp only
  rw [Ev.reform_behind, Ev.setActivity_behind, Ev.behind_toState, Ev.behind_toState, Ev.brakeRelease_behind]
  split <;> rfl

theorem Ev.react_behind : (e.behind ns).react = e.react.behind ns := by
  unfold Ev.react
  rw [Ev.settle_behind, Ev.handConditions_behind, Ev.pumpChassis_behind, Ev.settle_behind, Ev.record_behind]

/-! ## Requests -/

theorem Ev.startValve_behind (k : ValveKind) (t : Option Tag) (a : Bool) :
    (e.behind ns).startValve k t a = (e.startValve k t a).behind ns := rfl

theorem Ev.endHeldRelease_behind (r : Result) : (e.behind ns).endHeldRelease r = (e.endHeldRelease r).behind ns := by
  unfold Ev.endHeldRelease
  rw [Ev.behind_toState]
  repeat' split
  all_goals rfl

theorem Ev.cancelInsert_behind : (e.behind ns).cancelInsert = e.cancelInsert.behind ns := by
  unfold Ev.cancelInsert
  rw [Ev.behind_toState]
  repeat' split
  all_goals rfl

theorem Ev.abandonValve_behind : (e.behind ns).abandonValve = e.abandonValve.behind ns := by
  unfold Ev.abandonValve
  rw [Ev.behind_toState]
  simp only [Ev.setAsv_behind, Ev.complete_behind]
  repeat' split
  all_goals rfl

theorem Ev.applyPark_behind (t : Tag) : (e.behind ns).applyPark t = (e.applyPark t).behind ns := by
  unfold Ev.applyPark
  rw [Ev.behind_toState]
  simp only [Ev.setAsv_behind, Ev.result_behind, Ev.refuse_behind, Ev.endHeldRelease_behind, Ev.abandonValve_behind, Ev.startValve_behind,
    Ev.react_behind]
  repeat' split
  all_goals rfl

theorem Ev.parkApply_behind (t : Tag) : (e.behind ns).parkApply t = (e.parkApply t).behind ns := by
  unfold Ev.parkApply
  rw [Ev.behind_toState]
  simp only [Ev.refuse_behind, Ev.result_behind, Ev.endHeldRelease_behind, Ev.applyPark_behind]
  repeat' split
  all_goals rfl

theorem Ev.holdRelease_behind (t : Tag) : (e.behind ns).holdRelease t = (e.holdRelease t).behind ns := rfl

theorem Ev.parkRelease_behind (t : Tag) (h : Bool) : (e.behind ns).parkRelease t h = (e.parkRelease t h).behind ns := by
  unfold Ev.parkRelease
  rw [Ev.behind_toState]
  simp only [Ev.refuse_behind, Ev.result_behind, Ev.startValve_behind, Ev.react_behind, Ev.holdRelease_behind]
  repeat' split
  all_goals rfl

theorem Ev.readTable_behind (t : Tag) (c x y : Nat) : (e.behind ns).readTable t c x y = (e.readTable t c x y).behind ns := by
  unfold Ev.readTable
  rw [Ev.behind_toState]
  repeat' split
  all_goals rfl

theorem Ev.discardShadow_behind (t : Tag) : (e.behind ns).discardShadow t = (e.discardShadow t).behind ns := by
  unfold Ev.discardShadow; dsimp only
  rw [Ev.cancelInsert_behind]; rfl

theorem Ev.insert_behind (t : Tag) (h : Bool) : (e.behind ns).insert t h = (e.insert t h).behind ns := by
  unfold Ev.insert Ev.holdInsert
  rw [Ev.behind_toState]
  simp only [Ev.refuse_behind, Ev.failInsertion_behind, Ev.carryOut_behind, Ev.react_behind, Ev.result_behind]
  repeat' split
  all_goals rfl

theorem Ev.learn_behind (t : Tag) (c x : Nat) : (e.behind ns).learn t c x = (e.learn t c x).behind ns := by
  unfold Ev.learn; dsimp only
  rw [Ev.closeHalf_behind, Ev.behind_toState]
  generalize e.closeHalf .cancelled = a
  simp only [Ev.refuse_behind, Ev.setTwu_behind, Ev.result_behind]
  repeat' split
  all_goals rfl

theorem Ev.assignTo_behind (t : Tag) (b : Binding) (i : BitVec 32) : (e.behind ns).assignTo t b i = (e.assignTo t b i).behind ns := by
  unfold Ev.assignTo Ev.bindEntry Ev.changeEntry Ev.setEntry
  rw [Ev.behind_toState]
  simp only [Ev.setTwu_behind, Ev.queueRecord_behind, Ev.react_behind, Ev.result_behind, Ev.refuse_behind]
  repeat' split
  all_goals rfl

theorem Ev.assign_behind (t : Tag) (c : Nat) (i : BitVec 32) : (e.behind ns).assign t c i = (e.assign t c i).behind ns := by
  unfold Ev.assign; dsimp only
  rw [Ev.closeHalf_behind, Ev.behind_toState]
  generalize e.closeHalf .cancelled = a
  simp only [Ev.refuse_behind, Ev.assignTo_behind]
  repeat' split
  all_goals rfl

theorem Ev.remove_behind (t : Tag) (c : Nat) : (e.behind ns).remove t c = (e.remove t c).behind ns := by
  unfold Ev.remove Ev.changeEntry Ev.setEntry; dsimp only
  rw [Ev.closeHalf_behind, Ev.behind_toState]
  generalize e.closeHalf .cancelled = a
  simp only [Ev.refuse_behind, Ev.setTwu_behind, Ev.queueRecord_behind, Ev.react_behind, Ev.result_behind]
  repeat' split
  all_goals rfl

theorem Ev.openHalf_behind (t : Tag) (b : Binding) : (e.behind ns).openHalf t b = (e.openHalf t b).behind ns := by
  unfold Ev.openHalf
  rw [Ev.behind_toState]
  repeat' split
  all_goals rfl

theorem Ev.moveEntry_behind (i : Fin 20) (b : Binding) : (e.behind ns).moveEntry i b = (e.moveEntry i b).behind ns := by
  unfold Ev.moveEntry
  rw [Ev.behind_toState]
  repeat' split
  all_goals rfl

theorem Ev.moveIf_behind (i : Option (Fin 20)) (b : Binding) : (e.behind ns).moveIf i b = (e.moveIf i b).behind ns := by
  cases i with
  | none => rfl
  | some i => exact e.moveEntry_behind ns i b

theorem Ev.swapBindings_behind (t : Tag) (h : ExchangeHalf) (b : Binding) :
    (e.behind ns).swapBindings t h b = (e.swapBindings t h b).behind ns := by
  unfold Ev.swapBindings
  rw [Ev.behind_toState]
  simp only [Ev.moveIf_behind, Ev.closeHalf_behind, Ev.react_behind, Ev.result_behind, Ev.refuse_behind]
  repeat' split
  all_goals rfl

theorem Ev.exchange_behind (t : Tag) (c : Nat) : (e.behind ns).exchange t c = (e.exchange t c).behind ns := by
  unfold Ev.exchange
  rw [Ev.behind_toState]
  simp only [Ev.refuse_behind, Ev.openHalf_behind, Ev.closeHalf_behind, Ev.result_behind, Ev.swapBindings_behind]
  repeat' split
  all_goals rfl

theorem Ev.readRegistry_behind (t : Tag) (n : Nat) : (e.behind ns).readRegistry t n = (e.readRegistry t n).behind ns := by
  unfold Ev.readRegistry
  rw [Ev.behind_toState]
  repeat' split
  all_goals rfl

theorem Ev.readTyre_behind (t : Tag) (n : Nat) : (e.behind ns).readTyre t n = (e.readTyre t n).behind ns := by
  unfold Ev.readTyre
  rw [Ev.behind_toState]
  repeat' split
  all_goals rfl

theorem Ev.readChannel_behind (t : Tag) (n : Nat) : (e.behind ns).readChannel t n = (e.readChannel t n).behind ns := by
  unfold Ev.readChannel
  rw [Ev.behind_toState]
  repeat' split
  all_goals rfl

theorem Ev.unmaskChannel_behind (t : Tag) (n : Nat) : (e.behind ns).unmaskChannel t n = (e.unmaskChannel t n).behind ns := by
  unfold Ev.unmaskChannel Ev.setChannel
  rw [Ev.behind_toState]
  simp only [Ev.refuse_behind, Ev.setWcu_behind, Ev.react_behind, Ev.result_behind]
  repeat' split
  all_goals rfl

theorem Ev.serviceActuate_behind (t : Tag) (h : Bool) (a : Option ServiceArgs) :
    (e.behind ns).serviceActuate t h a = (e.serviceActuate t h a).behind ns := by
  unfold Ev.serviceActuate Ev.holdService
  rw [Ev.behind_toState]
  simp only [Ev.refuse_behind, Ev.startService_behind, Ev.result_behind, Ev.react_behind]
  repeat' split
  all_goals rfl

theorem Ev.reportNext_behind (t : Tag) : (e.behind ns).reportNext t = (e.reportNext t).behind ns := by
  unfold Ev.reportNext
  rw [Ev.behind_toState]
  repeat' split
  all_goals rfl

theorem Ev.acknowledge_behind (k : Fin 23) : (e.behind ns).acknowledge k = (e.acknowledge k).behind ns := by
  unfold Ev.acknowledge
  rw [Ev.behind_toState]
  simp only [Ev.clearAlert_behind, Ev.setApu_behind, Ev.reformLamp_behind]
  repeat' split
  all_goals rfl

theorem Ev.ackAlert_behind (t : Tag) (n : Nat) : (e.behind ns).ackAlert t n = (e.ackAlert t n).behind ns := by
  unfold Ev.ackAlert
  rw [Ev.behind_toState]
  simp only [Ev.acknowledge_behind, Ev.result_behind, Ev.refuse_behind]
  repeat' split
  all_goals rfl

theorem Ev.searchFrom_behind (t : Tag) (k : RecordKind) (n : Nat) : (e.behind ns).searchFrom t k n = (e.searchFrom t k n).behind ns := by
  unfold Ev.searchFrom
  rw [Ev.behind_toState]
  repeat' split
  all_goals rfl

theorem Ev.readFirst_behind (t : Tag) (n : Nat) : (e.behind ns).readFirst t n = (e.readFirst t n).behind ns := by
  unfold Ev.readFirst
  rw [Ev.behind_toState]
  simp only [Ev.searchFrom_behind, Ev.refuse_behind]
  repeat' split
  all_goals rfl

theorem Ev.readNext_behind (t : Tag) : (e.behind ns).readNext t = (e.readNext t).behind ns := by
  unfold Ev.readNext
  rw [Ev.behind_toState]
  simp only [Ev.searchFrom_behind, Ev.refuse_behind]
  repeat' split
  all_goals rfl

theorem Ev.eraseStore_behind (t : Tag) : (e.behind ns).eraseStore t = (e.eraseStore t).behind ns := by
  unfold Ev.eraseStore
  rw [Ev.behind_toState]
  repeat' split
  all_goals rfl

theorem Ev.acceptReset_behind (t : Tag) : (e.behind ns).acceptReset t = (e.acceptReset t).behind ns := by
  unfold Ev.acceptReset; dsimp only
  rw [Ev.behind_toState]
  split <;> rfl

theorem Ev.requestReset_behind (t : Tag) : (e.behind ns).requestReset t = (e.requestReset t).behind ns := by
  unfold Ev.requestReset
  rw [Ev.behind_toState]
  simp only [Ev.acceptReset_behind, Ev.refuse_behind]
  repeat' split
  all_goals rfl

theorem Ev.identify_behind (t : Tag) : (e.behind ns).identify t = (e.identify t).behind ns := rfl

theorem Ev.clearCause_behind (t : Tag) : (e.behind ns).clearCause t = (e.clearCause t).behind ns := rfl

theorem Ev.endNamed_behind (n : Nat) : (e.behind ns).endNamed n = (e.endNamed n).map fun a => a.behind ns := by
  unfold Ev.endNamed
  simp only [Ev.behind_toState, Ev.endHeldRelease_behind, Ev.cancelInsert_behind, Ev.closeLearn_behind, Ev.closeHalf_behind,
    Ev.cancelService_behind]
  repeat' split
  all_goals rfl

theorem Ev.cancel_behind (t : Tag) (n : Nat) : (e.behind ns).cancel t n = (e.cancel t n).behind ns := by
  unfold Ev.cancel
  rw [Ev.endNamed_behind]
  split
  · cases e.endNamed n with
    | none => rfl
    | some a => simp only [Option.map_some, Ev.react_behind, Ev.result_behind]
  · rfl

theorem Ev.writeTable_behind (w : TableWriteFrame) : (e.behind ns).writeTable w = (e.writeTable w).behind ns := by
  unfold Ev.writeTable
  split
  · rfl
  · dsimp only; split <;> rfl

/-- R165: how a request is decided does not depend on the ALERT frames produced before. -/
theorem Ev.decide_behind (code : Byte) (r : Request) : (e.behind ns).decide code r = (e.decide code r).behind ns := by
  unfold Ev.decide
  simp only [Ev.identify_behind, Ev.parkApply_behind, Ev.parkRelease_behind, Ev.readTable_behind, Ev.discardShadow_behind,
    Ev.insert_behind, Ev.learn_behind, Ev.assign_behind, Ev.remove_behind, Ev.exchange_behind, Ev.readRegistry_behind, Ev.readTyre_behind,
    Ev.readChannel_behind, Ev.unmaskChannel_behind, Ev.serviceActuate_behind, Ev.reportNext_behind, Ev.ackAlert_behind,
    Ev.readFirst_behind, Ev.readNext_behind, Ev.eraseStore_behind, Ev.requestReset_behind, Ev.clearCause_behind, Ev.cancel_behind,
    Ev.refuse_behind]
  split <;> rfl

end

end Sys2Proof.Machine
end

