-- ==== Sys2Proof/Laws/Requests.lean ====
section
/-! SUPPORT. How a request that the part serves is decided, and what becomes of an event's frames: the lemmas that every statement about a
request rests on. -/

namespace Sys2Proof.Machine

/-- A request that the part serves is decided by its body alone. -/
theorem deliver_serves {s : State} {target : BitVec 4} (h : s.Serves target) (frame : CanFrame) (tag : Tag) (body : Ev → Ev) :
    deliver target.toNat frame tag body s = (body (Ev.start s)).conclude := by
  obtain ⟨h1, h2, h3⟩ := h
  unfold deliver
  rw [if_pos h1, h3]
  have : s.restoring = false := by simp [State.restoring, h2]
  simp [Handling.takes, Ev.relay, this]

theorem deliverRequest_serves {s : State} {r : Request} (h : s.Serves r.target) (code : Byte) (body : Ev → Ev) :
    deliverRequest code r body s = (body (Ev.start s)).conclude := deliver_serves h _ _ _

/-- An event that produces no ALERT frame and finds room for its answers queues them and does nothing else. -/
theorem Ev.conclude_answers (e : Ev) (h : e.resetNow = false) (hr : e.apu.power = .run) (hn : e.notices = [])
    (hroom : e.toState.roomForward e.answersFrames.length) :
    ∃ t, e.conclude = .next t ∧ e.toState.Answers t (e.answersFrames.map (·.frame)) :=
  ⟨_, Ev.conclude_flush e h, Ev.flush_answers e hr hn hroom⟩

/-- An event whose own answers are produced before its closing work. -/
theorem Ev.react_conclude_sends (e : Ev) (h : e.resetNow = false) :
    ∃ t, e.react.conclude = .next t ∧ e.toState.ClosesTo t ∧
      (e.apu.power = .run → e.toState.roomForward e.answersFrames.length → e.toState.Sends t (e.answersFrames.map (·.frame))) :=
  ⟨_, Ev.conclude_flush _ ((Ev.Keeps.react e).resetNow.trans h), Ev.react_flush_closes e _ rfl, fun hr hm => Ev.react_sends e hr hm⟩

/-- What an answer added after the closing work of an event leaves. -/
theorem Ev.result_spec (e : Ev) (tag : Tag) (r : Result) :
    (e.result tag r).toState = e.toState ∧ (e.result tag r).answers = e.answers ++ [{ tag := tag, result := r }] ∧
      (e.result tag r).resetNow = e.resetNow := ⟨rfl, rfl, rfl⟩

/-- The frames of an event's answers with one more. -/
def Ev.framesWith (e : Ev) (x : Answer) : List ForwardFrame := (e.answers ++ [x]).flatMap fun y => y.frames e.lru.position

/-- An event whose own answer is produced after its closing work: the answers before it go first; with nothing held or running, all of them
go in order. -/
theorem Ev.react_result_conclude (e : Ev) (h : e.resetNow = false) (tag : Tag) (r : Result) :
    ∃ t, (e.react.result tag r).conclude = .next t ∧ e.toState.ClosesTo t ∧
      (e.apu.power = .run → e.toState.roomForward e.answersFrames.length → e.toState.Sends t (e.answersFrames.map (·.frame))) ∧
      (e.toState.Calm → e.apu.power = .run →
        e.toState.roomForward (e.framesWith { tag := tag, result := r }).length →
        e.toState.Sends t ((e.framesWith { tag := tag, result := r }).map (·.frame))) := by
  obtain ⟨h1, h2, h3⟩ := Ev.result_spec e.react tag r
  obtain ⟨more, hans⟩ := (Ev.Keeps.react e).answers
  have hreset := (Ev.Keeps.react e).resetNow.trans h
  generalize e.react.result tag r = a at *
  refine ⟨_, Ev.conclude_flush _ (h3.trans hreset), Ev.react_flush_closes e _ h1, fun hr hm => ?_, fun hc hr hm => ?_⟩
  · refine Ev.react_sends_first e a h1 e.answers (more ++ [{ tag := tag, result := r }]) ?_ hr hm
    rw [h2, ← hans, List.append_assoc]
  · exact Ev.react_sends_last e a _ h1 h2 hc hr hm

/-! ## States that close alike -/

/-- Two states that differ at most in what the closing work of an event forms anew. -/
structure State.Alike (s e : State) : Prop where
  asv : s.asv = e.asv
  wcu : s.wcu = e.wcu
  twu : s.twu = e.twu
  tbu : s.tbu = e.tbu
  lru : s.lru = e.lru
  rst : s.rst = e.rst
  rou : s.rou.core = e.rou.core
  k : s.rou.k = e.rou.k
  hold : s.rou.holdTimer = e.rou.holdTimer
  totalLoad : s.lap.totalLoad = e.lap.totalLoad
  axles : ∀ a : Fin 4, s.lap.axles[a].core = e.lap.axles[a].core
  apu : s.apu.core = e.apu.core
  configured : s.apu.configured = e.apu.configured
  alerts : s.apu.alerts = e.apu.alerts
  clock : s.clock = e.clock
  pending : s.pending = e.pending

theorem State.Alike.power {s e : State} (h : s.Alike e) : s.apu.power = e.apu.power := Apu.power_of_core h.apu

theorem Rou.state_of_core {a b : Rou} (h : a.core = b.core) : a.state = b.state := by
  have : a.core.state = b.core.state := by rw [h]
  exact this
theorem Rou.lifted_of_core {a b : Rou} (h : a.core = b.core) : a.lifted = b.lifted := by
  have : a.core.lifted = b.core.lifted := by rw [h]
  exact this

theorem State.Alike.outputSuspended {s e : State} (h : s.Alike e) : s.outputSuspended = e.outputSuspended := by
  simp only [State.outputSuspended, State.restoring, h.rst, h.power, h.asv]

theorem State.Alike.referenceSpeed {s e : State} (h : s.Alike e) : s.referenceSpeed = e.referenceSpeed := by
  have hc : ∀ c : Fin 6, s.contributes c = e.contributes c := fun c => by
    simp only [State.contributes, State.channelUsable, State.channelEntry, h.wcu, h.tbu, Rou.lifted_of_core h.rou]
  have hs : s.speeds = e.speeds := by unfold State.speeds; rw [h.wcu]; simp only [hc]
  unfold State.referenceSpeed
  rw [hs, h.asv]

theorem State.Alike.channelFollows {s e : State} (h : s.Alike e) (c : Fin 6) : s.channelFollows c = e.channelFollows c := by
  simp only [State.channelFollows, h.outputSuspended, h.wcu, State.channelUsable, State.channelEntry, h.tbu]

theorem State.Alike.busHalted {s e : State} (h : s.Alike e) : s.BusHalted ↔ e.BusHalted := by
  simp only [State.BusHalted, State.restoring, h.wcu, h.rst, h.power]

theorem State.Alike.steadily {s e : State} (h : s.Alike e) : s.Steadily ↔ e.Steadily := by
  simp only [State.Steadily, h.busHalted, h.outputSuspended, h.referenceSpeed, h.tbu, h.wcu, h.asv, Rou.state_of_core h.rou]

theorem State.Alike.notReleased {s e t : State} (h : s.Alike e) : s.NotReleased t ↔ e.NotReleased t := by
  simp only [State.NotReleased, h.tbu]

theorem State.Alike.conditions {s e : State} (h : s.Alike e) : s.conditions = e.conditions :=
  State.conditions_congr (by rw [h.asv]) (fun c => by rw [h.wcu]) h.tbu (by rw [h.twu]) h.rou h.axles (by rw [h.rst]) (by rw [h.rst])
    (by rw [h.lru])

theorem State.Alike.forwards {s e t : State} (h : s.Alike e) (g : e.Forwards t) : s.Forwards t := by
  have hx : s.towFrames = e.towFrames := by unfold State.towFrames; rw [h.lru]
  exact ⟨hx ▸ g.frames, fun hr => by rw [hx, h.lru]; exact g.quiet (h.power ▸ hr), h.lru ▸ g.counts, h.lru ▸ g.dropped, fun hf => by
    rw [h.alerts, h.lru]; exact g.occurs hf⟩

theorem State.Alike.raised {s e : State} (h : s.Alike e) {m : Vector Channel 6} (g : e.Raised m) : s.Raised m :=
  g.congr (by rw [h.wcu]) (by rw [h.wcu]) (by rw [h.tbu]) h.outputSuspended

theorem State.Alike.sendsChannel {s e t : State} (h : s.Alike e) (g : e.SendsChannel t) : s.SendsChannel t := by
  obtain ⟨m, hm, hn, hc⟩ := g
  refine ⟨m, h.raised hm, fun x => by rw [h.wcu]; exact hn x, fun c ranking hx => ?_⟩
  have hw (p : Nat) : ((s.withChannels m).channelSent c p ranking).wcu = ((e.withChannels m).channelSent c p ranking).wcu := by
    simp only [State.channelSent, State.withChannels, h.wcu, h.tbu, h.clock, h.outputSuspended]
    rfl
  obtain ⟨p, hp, h1, h2, h3, h4⟩ := hc c ranking (by unfold State.chooses at hx ⊢; rw [← h.tbu, ← h.wcu]; exact hx)
  refine ⟨p, by simpa only [State.mayActuate, h.asv, h.wcu] using hp, ?_⟩
  dsimp only
  rw [hw p]
  refine ⟨h1, h2, h3.congr (by rw [hw]) (by rw [hw]) (by show s.tbu.active = e.tbu.active; rw [h.tbu]) ?_, h4⟩
  exact h.outputSuspended

theorem State.Alike.holdFollows {s e t : State} (h : s.Alike e) (g : e.HoldFollows t) : s.HoldFollows t := by
  have hl : s.rou.lastSample = e.rou.lastSample := congrArg (·.lastSample) h.rou
  simpa only [State.HoldFollows, State.holdAgainst, State.starting, h.k, h.hold, h.totalLoad, Rou.state_of_core h.rou, hl, h.tbu, h.clock] using g

/-- What the closing work makes of a state it makes of one that is alike. -/
theorem State.Alike.closes {s e t : State} (h : s.Alike e) (g : e.ClosesTo t) : s.ClosesTo t := by
  refine ⟨?_, fun hi => ?_, fun hc => ?_, fun hs => ?_, fun hi => ?_, fun hb => ?_, fun hi hb => ?_,
    fun hi hb hv => ?_, h.forwards g.forwards, fun hi k before after hb ha => ?_, fun k hk hn hx => ?_, fun hb k hk => ?_,
    fun hi => h.holdFollows (g.hold (h.notReleased.1 hi)), fun hr => ?_⟩
  · have k := g.keeps
    exact ⟨by rw [k.asv, h.asv], by rw [h.clock, h.asv]; exact k.valve, by rw [k.lru, h.lru], by rw [k.apu, h.apu], by rw [k.rst, h.rst],
      by rw [k.foreign, h.twu], by rw [k.repeats, h.twu], by rw [k.invalid, h.twu], by rw [k.clock, h.clock], by rw [k.pending, h.pending],
      fun j hj hf => k.events j hj (by rw [← h.alerts]; exact hf), fun j hj hf => by rw [h.alerts]; exact k.acks j hj hf⟩
  · have k := g.stays (h.notReleased.1 hi)
    exact ⟨by rw [k.configured, h.configured], by rw [k.tbu, h.tbu], by rw [k.twu, h.twu], by rw [k.rou, h.rou],
      fun a => by rw [k.axles a, h.axles a], by rw [k.trainA, h.wcu]⟩
  · have k := g.rests (by simp only [State.Calm, h.tbu, h.wcu] at hc; exact hc)
    exact ⟨by rw [k.trainB, h.wcu], by rw [k.service, h.wcu], by rw [k.lru, h.lru]⟩
  · have k := g.runs (h.steadily.1 hs)
    exact ⟨by rw [k.trainB, h.wcu], by rw [k.service, h.wcu], by rw [k.lru, h.lru]⟩
  · rw [g.records (h.notReleased.1 hi), h.rst]
  · have k := g.halted (h.busHalted.1 hb)
    rw [h.wcu]; exact k
  · obtain ⟨k1, k2⟩ := g.channels (h.notReleased.1 hi) (hb.imp h.busHalted.1 fun x => by rw [← h.wcu]; exact x)
    exact ⟨h.raised k1, by rw [h.wcu]; exact k2⟩
  · obtain ⟨k1, k2⟩ := g.channelSent (h.notReleased.1 hi) (fun x => hb (h.busHalted.2 x)) (by rw [← h.wcu]; exact hv)
    exact ⟨h.sendsChannel k1, k2⟩
  · rw [h.alerts]
    exact g.conditions (h.notReleased.1 hi) k before after (h.conditions ▸ hb) ha
  · rw [h.alerts]
    exact g.occurrences k hk hn (hx.imp id h.notReleased.1)
  · exact g.valveSent (fun x => hb (h.busHalted.2 x)) k (by rw [← h.wcu]; exact hk)
  · rw [h.hold]; exact g.holdReleased (by rw [← Rou.state_of_core h.rou]; exact hr)

/-- R188: the queueing of an event record, as the statements say it. -/
theorem Ev.queueEvent_state (e : Ev) (r : Record) :
    (e.queueEvent r).toState = e.toState.withEvent r ∧ (e.queueEvent r).answers = e.answers ∧ (e.queueEvent r).notices = e.notices ∧
      (e.queueEvent r).resetNow = e.resetNow := by
  have hc : (if e.rst.erase.isSome then Decidable.decide (e.rst.queue.length < writeCapacity) else e.roomFor [r.length]) = true ↔
      e.rst.queue.length < 8 ∧
        (e.rst.erase.isSome = true ∨ r.length ≤ 1024 - e.rst.writePos - (e.rst.queue.map (·.length)).sum) := by
    cases h : e.rst.erase
    · simp [State.roomFor, State.freeSlots, writeCapacity, slotCount, h]
    · simp [writeCapacity]; exact decide_eq_true_iff
  unfold Ev.queueEvent State.withEvent
  by_cases h : e.rst.queue.length < 8 ∧
      (e.rst.erase.isSome = true ∨ r.length ≤ 1024 - e.rst.writePos - (e.rst.queue.map (·.length)).sum)
  · rw [if_pos (hc.2 h), if_pos h]; exact ⟨rfl, rfl, rfl, rfl⟩
  · rw [if_neg (fun x => h (hc.1 x)), if_neg h]; exact ⟨rfl, rfl, rfl, rfl⟩

end Sys2Proof.Machine
end

