-- ==== Sys2Proof/Tests/Slice0.lean ====
section
/-! SUPPORT. The model's own tests: the well-formedness checks, the frames of chapter 11 against commands, one small step of every command,
and for every statement of Certificates/Slice0/Obligations.lean that has hypotheses, states and operands that meet them. -/

namespace Sys2Proof.Tests

open Sys2Proof Sys2Proof.Machine

set_option Elab.async false

/-! ## Small states -/

/-- What a next state shows. -/
def seen {α : Type} (o : Outcome) (f : State → α) : Option α :=
  match o with
  | .next t => some (f t)
  | _ => none

/-- In RUN after restore, nothing held, running or waiting. -/
def live : State := { State.reset with rst := { State.reset.rst with restore := none } }

/-- Parked at standstill with a demand of 0. -/
def parked : State := { live with asv := { live.asv with supply := .parked, dEff := some 0 } }

/-- Ready at standstill with a demand of 0. -/
def ready : State := { live with asv := { live.asv with supply := .ready, dEff := some 0 } }

/-- In STANDBY with tow power absent. -/
def standby : State :=
  { live with apu := { live.apu with power := .standby, towPower := false, standbyTimer := some { length := 5, since := 0 } } }

/-- In restore. -/
def restoring : State := State.reset

/-- Moving at 62.0 km/h by the towing vehicle's speed, linked. -/
def moving : State :=
  { ready with
    asv := { ready.asv with link := .linked, towSpeed := some 620, lastDemand := some 0 }, wcu := { ready.wcu with refSpeed := 620 } }

/-- A request to every part, with its five argument bytes as one number. -/
def rq (args : BitVec 40) : Request := { target := 15, tag := 7, flags := 0, args := args }

/-- The same with the hold flag. -/
def rqHold (args : BitVec 40) : Request := { rq args with flags := 1 }

/-- A running timer. -/
def five : Timer := some { length := 5, since := 0 }

/-- A state with the first axle present. -/
def withAxle (s : State) : State :=
  { s with tbu := { s.tbu with active := { s.tbu.active with axle := s.tbu.active.axle.set 0 { present := true } } } }

/-- A state with channel 1 present on the left of axle 1, which is present, at node 1. -/
def withChannel1 (s : State) : State :=
  { withAxle s with tbu := { s.tbu with active := { (withAxle s).tbu.active with channel := { (withAxle s).tbu.active.channel with
      entries := (withAxle s).tbu.active.channel.entries.set 0
        { present := true, side := .left, axles := #v[true, false, false, false], node := 1 } } } } }

/-- A state whose registry entry 1 holds identifier 5 on a binding. -/
def withTyre (s : State) (b : Binding) (x : Reading) : State :=
  { s with twu := { s.twu with entries := s.twu.entries.set 0 (some { ident := 5, binding := b, reading := x }) } }

/-- The outer tyre on the left of axle 1. -/
def outer1 : Binding := .tyre 0 .left .outer

/-- The frames that a state sends, by their identifiers and data. -/
def sent (s : State) : List (Nat × Nat) := s.towFrames.map fun f => (f.id.toNat, f.data.toNat)

/-! ## Well-formedness -/

/-- Request code 8 is ASSIGN, so REQUEST_UNKNOWN of it is ill-formed; code 24 is none of the table's. -/
theorem test_illFormed_requestUnknown :
    Instr.wellFormed (.requestUnknown 8 (rq 0)) = false ∧ Instr.wellFormed (.requestUnknown 24 (rq 0)) = true := by decide +kernel

/-- A frame of 9 data bytes is no classical CAN frame. -/
theorem test_illFormed_towFrameDiscarded_length :
    Instr.wellFormed (.towFrameDiscarded { id := 0, len := 9, data := 0 }) = false ∧
      Instr.wellFormed (.towFrameDiscarded { id := 0, len := 8, data := 0 }) = true := by decide +kernel

/-- A DEMAND frame of position 0 and length 8 is not discarded on arrival; one of length 7 is malformed. -/
theorem test_illFormed_towFrameDiscarded_kind :
    Instr.wellFormed (.towFrameDiscarded { id := 128, len := 8, data := 0 }) = false ∧
      Instr.wellFormed (.towFrameDiscarded { id := 128, len := 7, data := 0 }) = true := by decide +kernel

/-- A rear-link frame of 9 data bytes. -/
theorem test_illFormed_rearFrame :
    Instr.wellFormed (.rearFrame { id := 1024, len := 9, data := 0 }) = false ∧
      Instr.wellFormed (.rearFrame { id := 1024, len := 8, data := 0 }) = true := by decide +kernel

/-! ## Frames, written out from chapter 11 -/

/-- DEMAND: kind 1, 300 kPa is 0x012C, hop 2 and sequence 9 are 0x29, 62.0 km/h is 0x026C. -/
theorem test_decode_demand :
    commandOfTowFrame { id := 0x080, len := 8, data := 0x012C29026C000000 } = .demand 300 2 9 620 := by decide +kernel

/-- REQUEST to position 2: kind 2, tag 0x55, ASSIGN 8, no hold, binding 3, identifier 0x01020304. -/
theorem test_decode_assign :
    commandOfTowFrame { id := 0x110, len := 8, data := 0x5508000301020304 } =
      .assign { target := 2, tag := 0x55, flags := 0, args := 0x0301020304 } := by decide +kernel

/-- REQUEST of code 0x40 to every part. -/
theorem test_decode_requestUnknown :
    commandOfTowFrame { id := 0x178, len := 8, data := 0x5540010000000000 } =
      .requestUnknown 0x40 { target := 15, tag := 0x55, flags := 1, args := 0 } := by decide +kernel

/-- TABLE_WRITE to position 1: kind 3, tag 9, table ROLL 4 and entry 7 are 0x87. -/
theorem test_decode_tableWrite :
    commandOfTowFrame { id := 0x188, len := 8, data := 0x0987AABBCCDDEEFF } =
      .tableWrite { target := 1, tag := 9, table := 4, entry := 7, area := 0xAABBCCDDEEFF } := by decide +kernel

/-- A RESPONSE on the tow link, and an identifier whose low bits are not 0. -/
theorem test_decode_discarded :
    commandOfTowFrame { id := 0x408, len := 8, data := 1 } = .towFrameDiscarded { id := 0x408, len := 8, data := 1 } ∧
      commandOfTowFrame { id := 0x081, len := 8, data := 1 } = .towFrameDiscarded { id := 0x081, len := 8, data := 1 } := by
  decide +kernel

/-- Chassis bus: LOAD_SAMPLE of axle 2, AIR_SAMPLE and LATERAL_SAMPLE of -300 cm/s² (0xFED4) with status FAULT. -/
theorem test_decode_samples :
    commandOfChassisFrame { id := 0x080, len := 8, data := 0x02012C0000000000 } = some (.loadSample 2 300 0) ∧
      commandOfChassisFrame { id := 0x100, len := 8, data := 0x032002BC00640000 } = some (.airSample 800 700 100 0) ∧
      commandOfChassisFrame { id := 0x180, len := 8, data := 0xFED4010000000000 } = some (.lateralSample (-300) 1) := by decide +kernel

/-- TYRE_TELEGRAM, MOD_REPLY of node 11 and VALVE_REPLY of node 31; a VALVE_REPLY of another node is no command. -/
theorem test_decode_chassis :
    commandOfChassisFrame { id := 0x200, len := 8, data := 0x0000000503205A27 } = some (.tyreTelegram 5 800 90 0x27) ∧
      commandOfChassisFrame { id := 0x30B, len := 8, data := 0x0096026C01000000 } = some (.modReply 11 150 620 1) ∧
      commandOfChassisFrame { id := 0x41F, len := 8, data := 0x0200000000000000 } = some (.valveReply 31 2) ∧
      commandOfChassisFrame { id := 0x41E, len := 8, data := 0x0200000000000000 } = none := by decide +kernel

/-! ## One step of every command -/

theorem test_step_frontCommand :
    seen (step { live with pending := [.secondsTick, .restoreEnd] }) (fun t => (t.apu.seconds, t.pending, t.clock)) =
      some (1, [.restoreEnd], 0) := by decide +kernel

theorem test_step_idle : seen (step live) (fun t => t.clock) = some 1 := by decide +kernel

theorem test_powerOnReset : seen (exec (.powerOnReset false) live) (fun t => (t.apu.power, t.rst.restore.isSome)) = some (.standby, true) := by
  decide +kernel

theorem test_brownOutReset :
    seen (exec (.brownOutReset true) live) (fun t => (t.apu.power, t.apu.cause)) =
      some (.run, { powerOn := true, brownOut := true, commanded := false }) := by decide +kernel

/-- A VALID REG_ENTRY record in slot 0: entry 3, identifier 5, spare slot 1. -/
def oneRecord : State :=
  { State.reset with rst := { State.reset.rst with
      writePos := 1,
      memory := [(0, 1), (1, 3), (2, 1), (3, 1), (4, 0), (5, 3), (6, 0), (7, 0), (8, 0), (9, 5), (10, 17), (11, 0), (12, 0), (13, 0),
        (14, 0), (15, 0)] } }

theorem test_restoreSlotRead :
    seen (exec .restoreSlotRead oneRecord) (fun t => (t.twu.entries[2], t.rst.restore.map (·.next))) =
      some (some { ident := 5, binding := .spare 0 }, some 1) := by decide +kernel

theorem test_restoreEnd :
    seen (exec .restoreEnd State.reset) (fun t => (t.rst.restore, t.asv.valveOp.map (·.kind), t.apu.statusTimer, t.rst.writing.isSome)) =
      some (none, some .query, some { length := 100, since := 0 }, true) := by decide +kernel

theorem test_towPowerLoss :
    seen (exec .towPowerLoss live) (fun t => (t.apu.power, t.apu.standbyTimer.map (·.length))) = some (.standby, some 259200000) := by
  decide +kernel

theorem test_standbyTimerExpiry : seen (exec .standbyTimerExpiry standby) (fun t => t.apu.power) = some .sleep := by decide +kernel

theorem test_towPowerReturn :
    seen (exec .towPowerReturn standby) (fun t => (t.apu.power, t.apu.towPower, t.asv.supply)) = some (.run, true, .undetermined) := by
  decide +kernel

theorem test_secondsTick :
    seen (exec .secondsTick { live with apu := { live.apu with seconds := 4294967295 } }) (fun t => t.apu.seconds) = some 4294967295 := by
  decide +kernel

/-- A STATUS frame: supply state PARKED, D_eff 0, total load 0, nothing pending. -/
theorem test_statusTimerExpiry :
    seen (exec .statusTimerExpiry { parked with apu := { parked.apu with statusTimer := five } }) sent = some [(1280, 0x2000000000000000)] := by
  decide +kernel

theorem test_airSample :
    seen (exec (.airSample 200 700 0 0) ready) (fun t => (t.asv.supply, t.asv.breakaway, t.asv.dEff)) = some (.emergency, true, some 800) := by
  decide +kernel

theorem test_airSampleTimerExpiry :
    seen (exec .airSampleTimerExpiry { ready with asv := { ready.asv with airTimer := five, lastAir := some ⟨800, 700, 0⟩ } })
      (fun t => (t.asv.airLost, t.asv.lastAir, t.asv.dEff)) = some (true, none, none) := by decide +kernel

theorem test_demand :
    seen (exec (.demand 300 0 9 620) { ready with asv := { ready.asv with goodRun := 2 } })
      (fun t => (t.lru.position, t.asv.link, t.asv.dEff, t.lru.rearTx.map (·.data))) =
        some (1, .linked, some 300, some 0x012C19026C000000) := by decide +kernel

theorem test_linkTimerExpiry :
    seen (exec .linkTimerExpiry { moving with asv := { moving.asv with linkTimer := five } })
      (fun t => (t.asv.link, t.asv.linkLost, t.asv.dEff)) = some (.unlinked, true, none) := by decide +kernel

/-- A valve operation that has been sent. -/
def sentOp (kind : ValveKind) (tag : Option Tag) : ValveOp :=
  { kind := kind, requester := tag, phase := .sent, auto := false, valveTimer := five, polls := five.toList }

/-- A state with such an operation. -/
def withOp (s : State) (kind : ValveKind) (tag : Option Tag) : State := { s with asv := { s.asv with valveOp := some (sentOp kind tag) } }

theorem test_valveReply :
    seen (exec (.valveReply 31 1) (withOp live .apply (some 7))) (fun t => (t.asv.supply, t.asv.valveOp, sent t)) =
      some (.parked, none, [(1024, 0x0701000000000000)]) := by decide +kernel

/-- R15: a MOVING reply that comes while the poll of an earlier one is still to come adds a poll of its own. -/
theorem test_valveReply_moving :
    seen (exec (.valveReply 31 3) { withOp live .apply none with clock := 3 })
      (fun t => t.asv.valveOp.map (·.polls)) = some (some [{ length := 5, since := 0 }, { length := 50, since := 3 }]) := by decide +kernel

theorem test_valvePollDue :
    seen (exec .valvePollDue (withOp { live with wcu := { live.wcu with tx := some ⟨0, 0⟩ } } .apply none))
      (fun t => (t.wcu.pendingValve, t.asv.valveOp.map (·.polls))) = some (some .query, some []) := by decide +kernel

theorem test_valveTimerExpiry :
    seen (exec .valveTimerExpiry (withOp parked .release (some 7))) (fun t => (t.asv.supply, t.asv.valveOp, t.apu.alerts[5].flag)) =
      some (.parked, none, true) := by decide +kernel

theorem test_autoParkTimerExpiry :
    seen (exec .autoParkTimerExpiry { live with asv := { live.asv with supply := .emergency, autoParkTimer := five } })
      (fun t => (t.asv.valveOp.map (·.kind), t.wcu.tx.map (·.id.toNat))) = some (some .apply, some 927) := by decide +kernel

/-- A held release of tag 7. -/
def heldRelease (s : State) : State :=
  { s with asv := { s.asv with heldRelease := some { tag := 7, timer := five } }, lru := { s.lru with slotRelease := some 7 } }

theorem test_releaseHoldTimerExpiry :
    seen (exec .releaseHoldTimerExpiry (heldRelease parked)) (fun t => (t.asv.heldRelease, t.lru.slotRelease, sent t)) =
      some (none, none, [(1024, 0x0706000000000000)]) := by decide +kernel

theorem test_parkApply :
    seen (exec (.parkApply (rq 0)) ready) (fun t => (t.asv.valveOp.map (·.kind), sent t)) =
      some (some .apply, [(1024, 0x0702000000000000)]) := by decide +kernel

theorem test_parkRelease :
    seen (exec (.parkRelease (rqHold 0)) parked) (fun t => (t.asv.heldRelease.map (·.tag), sent t)) =
      some (some 7, [(1024, 0x0703000000000000)]) := by decide +kernel

/-- R26 with the breakpoints (100, 200) and (300, 600) on axle 1. -/
def withLoads (s : State) : State :=
  { withAxle s with tbu := { s.tbu with active := { (withAxle s).tbu.active with
      load := { points := ((withAxle s).tbu.active.load.points.set 0 ⟨100, 200⟩).set 1 ⟨300, 600⟩,
                counts := (withAxle s).tbu.active.load.counts.set 0 2 } } } }

theorem test_loadSample :
    seen (exec (.loadSample 1 150 0) { withLoads ready with lap := { ready.lap with held := false } })
      (fun t => (t.lap.axles[0].lF, t.lap.axles[0].status, t.lap.axles[0].ratio)) = some (some 300, .live, 300) := by decide +kernel

/-- Axle 1 with a load record of a status and with both timers running. -/
def withLoad (s : State) (x : LoadStatus) : State :=
  { withAxle s with lap := { s.lap with
      axles := s.lap.axles.set 0 { lF := some 500, status := x, staleTimer := five, fallbackTimer := five } } }

theorem test_staleTimerExpiry :
    seen (exec (.staleTimerExpiry 0) (withLoad ready .live))
      (fun t => (t.lap.axles[0].status, t.lap.axles[0].fallbackTimer.map (·.length), t.apu.alerts[10].flag)) =
        some (.stale, some 10000, true) := by decide +kernel

theorem test_fallbackTimerExpiry :
    seen (exec (.fallbackTimerExpiry 0) (withLoad ready .stale)) (fun t => (t.lap.axles[0].status, t.lap.axles[0].ratio)) =
      some (.fallback, 1000) := by decide +kernel

theorem test_chassisTxDone :
    seen (exec .chassisTxDone { live with wcu := { live.wcu with tx := some ⟨5, 6⟩, pendingValve := some .query } })
      (fun t => (t.wcu.tx.map (fun f => (f.id.toNat, f.data.toNat)), t.wcu.pendingValve)) =
        some (some (927, 0x0300000000000000), none) := by decide +kernel

theorem test_chassisTxAbandon :
    seen (exec .chassisTxAbandon { live with wcu := { live.wcu with tx := some ⟨5, 6⟩ } }) (fun t => t.wcu.tx) = some none := by
  decide +kernel

theorem test_refreshTimerExpiry :
    seen (exec (.refreshTimerExpiry 0)
        { withChannel1 ready with wcu := { ready.wcu with
            tx := some ⟨5, 6⟩, suspended := false, channels := ready.wcu.channels.set 0 { refreshTimer := five } } })
      (fun t => (t.wcu.channels[0].request, t.wcu.channels[0].refreshTimer)) = some (true, none) := by decide +kernel

theorem test_modReply :
    seen (exec (.modReply 1 150 620 0) { withChannel1 ready with wcu := { ready.wcu with suspended := false } })
      (fun t => (t.wcu.channels[0].lastReply, t.wcu.refSpeed)) = some (some ⟨150, 620, 0⟩, 620) := by decide +kernel

theorem test_modReply_fault :
    seen (exec (.modReply 1 150 620 3) { withChannel1 ready with wcu := { ready.wcu with suspended := false } })
      (fun t => (t.wcu.channels[0].mask, t.apu.alerts[4].flag)) = some (some .fault, true) := by decide +kernel

theorem test_unmaskChannel :
    seen (exec (.unmaskChannel (rq 0x0100000000))
        { withChannel1 ready with wcu := { ready.wcu with tx := some ⟨5, 6⟩, channels := ready.wcu.channels.set 0 { mask := some .lost } } })
      (fun t => (t.wcu.channels[0].mask, sent t)) = some (none, [(1024, 0x0701000000000000)]) := by decide +kernel

/-- R63, R174: channel 2 alone is masked LOST, acknowledged; UNMASK ends CHANNEL_LOST, and the sending of channel 1 at the same event is its
third miss, which begins it again. -/
def relosing : State :=
  let s := withChannel1 ready
  { s with
    tbu := { s.tbu with active := { s.tbu.active with
      channel := { s.tbu.active.channel with
        entries := s.tbu.active.channel.entries.set 1 { present := true, side := .right, axles := #v[true, false, false, false], node := 2 } },
      alert := s.tbu.active.alert.set 3 { enable := true, urgent := true } } },
    wcu := { s.wcu with
      suspended := false,
      channels := (s.wcu.channels.set 0 { command := some 0, request := true, awaiting := true, missCount := 2 }).set 1
        { command := some 0, mask := some .lost } },
    apu := { s.apu with alerts := s.apu.alerts.set 3 { flag := true, ack := true } } }

theorem test_unmaskChannel_lostAgain :
    seen (exec (.unmaskChannel (rq 0x0200000000)) relosing)
      (fun t => (t.wcu.channels[0].mask, t.wcu.channels[1].mask, t.apu.alerts[3], sent t)) =
        some (some .lost, none, { flag := true, ack := false },
          [(1024, 0x0701000000000000), (1408, 0x0400000000000000), (1408, 0x0401000000000000)]) := by decide +kernel

/-- The first five data bytes: present with axle 1 on the left, node 1, command undefined, last sent 0. -/
theorem test_readChannel :
    seen (exec (.readChannel (rq 0x0100000000)) (withChannel1 ready)) (fun t => ((sent t).head?, (sent t).length)) =
      some (some (1024, 0x0701008801FFFF00), 3) := by decide +kernel

/-- A train in GAP with a count. -/
def gap (n : Nat) : PulseTrain :=
  { targets := Vector.replicate 6 false, pressure := 300, pulse := 200, base := 2, count := n, phase := .gap, armed := true, timer := five }

theorem test_phaseTimerExpiry :
    seen (exec (.phaseTimerExpiry .b) { ready with wcu := { ready.wcu with trainB := gap 1, service := .running 7 0 } })
      (fun t => (t.wcu.trainB.phase, t.wcu.trainB.terminal, t.wcu.service, sent t)) =
        some (.off, true, .none, [(1024, 0x0701000000000000)]) := by decide +kernel

/-- Channel 1, count 2, 300 kPa, 100 ms. -/
theorem test_serviceActuate :
    seen (exec (.serviceActuate (rq 0x01212C0064)) (withChannel1 ready))
      (fun t => (t.wcu.service, t.wcu.trainB.count, t.wcu.trainB.pressure, sent t)) =
        some (.running 7 0, 2, 300, [(1024, 0x0702000000000000)]) := by decide +kernel

/-- A held service actuation of tag 7. -/
def heldService (s : State) : State :=
  { s with
    wcu := { s.wcu with service := .held 7 { channel := 0, pressure := 300, count := 2, pulse := 100 } five },
    lru := { s.lru with slotService := some 7 } }

theorem test_serviceHoldTimerExpiry :
    seen (exec .serviceHoldTimerExpiry (heldService ready)) (fun t => (t.wcu.service, t.lru.slotService, sent t)) =
      some (.none, none, [(1024, 0x0706000000000000)]) := by decide +kernel

/-- Moving with the rollover unit in a stability state. -/
def rolling (x : Stability) : State := { moving with rou := { moving.rou with state := x } }

theorem test_lateralSample :
    seen (exec (.lateralSample 450 0) (rolling .quiet)) (fun t => (t.rou.state, t.rou.lastSample, t.apu.alerts[2].flag)) =
      some (.intervene, 450, true) := by decide +kernel

/-- R92 test 3 at the exit threshold of 240: a sample below it starts a stopped hold timer and leaves a running one, one at it stops it. -/
theorem test_lateralSample_hold :
    ((rolling .intervene).rou.exitT = 240 ∧ (rolling .intervene).rou.holdTimer = none) ∧
    seen (exec (.lateralSample 239 0) (rolling .intervene)) (fun t => (t.rou.state, t.rou.holdTimer.map (·.length))) =
      some (.intervene, some 1000) ∧
    (let running : State := { rolling .intervene with rou := { (rolling .intervene).rou with holdTimer := five } }
     seen (exec (.lateralSample 239 0) running) (·.rou.holdTimer) = some five ∧
     seen (exec (.lateralSample (-240) 0) running) (·.rou.holdTimer) = some none) := by decide +kernel

theorem test_lateralTimerExpiry :
    seen (exec .lateralTimerExpiry { rolling .watch with rou := { (rolling .watch).rou with lateralTimer := five } })
      (fun t => (t.rou.state, t.rou.sensorLost, t.apu.alerts[8].flag)) = some (.off .sensorLost, true, true) := by decide +kernel

theorem test_holdTimerExpiry :
    seen (exec .holdTimerExpiry { rolling .intervene with rou := { (rolling .intervene).rou with holdTimer := five } })
      (fun t => (t.rou.state, t.rou.rampTimer.map (·.length))) = some (.holdoff, some 100) := by decide +kernel

theorem test_rampTimerExpiry :
    seen (exec .rampTimerExpiry
        { rolling .holdoff with rou := { (rolling .holdoff).rou with rampTimer := five, pressures := Vector.replicate 8 120 } })
      (fun t => (t.rou.state, t.rou.pressures[0])) = some (.holdoff, 70) := by decide +kernel

theorem test_lockoutTimerExpiry :
    seen (exec .lockoutTimerExpiry { live with rou := { live.rou with lockoutTimer := five } }) (fun t => t.rou.lockoutTimer) =
      some none := by decide +kernel

/-- 350 kPa at 50 degrees against a cold pressure of 800 kPa: adj is 892 and the deflate threshold 446. -/
theorem test_tyreTelegram :
    seen (exec (.tyreTelegram 5 350 90 0x10) (withTyre (withAxle ready) outer1 {}))
      (fun t => (t.twu.entries[0].map fun b => (b.reading.level, b.reading.adj, b.reading.count), t.wcu.wheels[0].cap, t.twu.deflated)) =
        some (some (.deflated, some 892, some 1), 500, 1) := by decide +kernel

theorem test_repeatWindowEnd :
    seen (exec (.repeatWindowEnd 0) (withTyre live outer1 { repeatWindow := five }))
      (fun t => t.twu.entries[0].map (·.reading.repeatWindow)) = some (some none) := by decide +kernel

theorem test_missingTimerExpiry :
    seen (exec (.missingTimerExpiry 0) (withTyre (withAxle ready) outer1 { level := .deflated, missingTimer := five }))
      (fun t => (t.twu.entries[0].map fun b => (b.reading.level, b.reading.deflMissing), t.apu.alerts[16].flag)) =
        some (some (.missing, true), true) := by decide +kernel

theorem test_learn :
    seen (exec (.learn (rq 0x0100140000)) (withAxle ready)) (fun t => (t.twu.learn.map fun w => (w.binding, w.timer), sent t)) =
      some (some (outer1, some { length := 20000, since := 0 }), [(1024, 0x0702000000000000)]) := by decide +kernel

/-- An open learn window for the first tyre. -/
def learning (s : State) : State :=
  { withAxle s with twu := { s.twu with learn := some { binding := outer1, tag := 7, timer := five, answered := [] } } }

theorem test_learnTimerExpiry :
    seen (exec .learnTimerExpiry (learning live)) (fun t => (t.twu.learn, sent t)) = some (none, [(1024, 0x0706000000000000)]) := by
  decide +kernel

/-- A telegram with its learn trigger set binds an identifier that no entry holds. -/
theorem test_tyreTelegram_learn :
    seen (exec (.tyreTelegram 5 800 60 0x14) (learning ready))
      (fun t => (t.twu.entries[0].map fun b => (b.ident, b.binding), t.twu.learn.isSome, sent t)) =
        some (some (5, outer1), false, [(1024, 0x0701000000000000)]) := by decide +kernel

/-- A telegram that replaces a deflated identifier and finds its own tyre deflated: the condition ends and begins again, so the frames tell both
and the flag comes back unacknowledged (R174). -/
theorem test_tyreTelegram_relearn :
    (let s := withTyre (learning ready) outer1 { level := .deflated }
     seen (exec (.tyreTelegram 6 350 90 0x14)
         { s with apu := { s.apu with alerts := s.apu.alerts.set AlertKind.tyreDeflated.index { flag := true, ack := true } } })
       (fun t => (t.apu.alerts[AlertKind.tyreDeflated.index], sent t))) =
      some ({ flag := true, ack := false },
        [(1024, 0x0701000000000000), (1408, 0x0700000000000000), (1408, 0x0701000000000000)]) := by decide +kernel

theorem test_assign :
    seen (exec (.assign (rq 0x0100000005)) (withAxle ready))
      (fun t => (t.twu.entries[0].map fun b => (b.ident, b.binding), t.rst.writing.map (·.record.kind), sent t)) =
        some (some (5, outer1), some .regEntry, [(1024, 0x0701000000000000)]) := by decide +kernel

theorem test_remove :
    seen (exec (.remove (rq 0x0100000000)) (withTyre (withAxle ready) outer1 {})) (fun t => (t.twu.entries[0], sent t)) =
      some (none, [(1024, 0x0701000000000000)]) := by decide +kernel

theorem test_exchange :
    seen (exec (.exchange (rq 0x0100000000)) (withAxle ready)) (fun t => (t.twu.half.map (·.binding), sent t)) =
      some (some outer1, [(1024, 0x0703000000000000)]) := by decide +kernel

/-- An open exchange half for the first tyre. -/
def halved (s : State) : State :=
  { withAxle s with twu := { s.twu with half := some { binding := outer1, tag := 7, timer := five } } }

theorem test_exchangeTimerExpiry :
    seen (exec .exchangeTimerExpiry (halved live)) (fun t => (t.twu.half, sent t)) = some (none, [(1024, 0x0706000000000000)]) := by
  decide +kernel

/-- The second half swaps the bindings: the tyre moves to the other side. -/
theorem test_exchange_second :
    seen (exec (.exchange (rq 0x0300000000)) (halved (withTyre ready outer1 {})))
      (fun t => (t.twu.entries[0].map (·.binding), sent t)) =
        some (some (.tyre 0 .right .outer), [(1024, 0x0701000000000000), (1024, 0x0701000000000000)]) := by decide +kernel

/-- Entry 1: evaluated, identifier 5, binding 1. -/
theorem test_readRegistry :
    seen (exec (.readRegistry (rq 0x0100000000)) (withTyre (withAxle ready) outer1 {})) sent =
      some [(1024, 0x0701000100000005), (1152, 0x0701010000000000)] := by decide +kernel

theorem test_readTyre :
    seen (exec (.readTyre (rq 0x0100000000)) (withTyre (withAxle ready) outer1 {})) sent =
      some [(1024, 0x0701000100000005), (1152, 0x070180FFFFFFFFFF), (1152, 0x0702FF00FFFF0000)] := by decide +kernel

/-- AXLE entry 1: present 1, twin 0, P0 30, rated load 900, r_min 300, fallback ratio 1,000. -/
theorem test_tableWrite :
    seen (exec (.tableWrite { target := 15, tag := 7, table := 1, entry := 1, area := 0x8F3844B3E800 }) ready)
      (fun t => (t.tbu.shadow.axle[0], t.tbu.differs, sent t)) =
        some ({ present := true, twin := false, p0 := 30, lRated := 900, rMin := 300, fallback := 1000 }, true,
          [(1024, 0x0701000000000000)]) := by decide +kernel

theorem test_readTable :
    seen (exec (.readTable (rq 0x0001010000)) ready) sent = some [(1024, 0x07010000210F3E84), (1152, 0x0701B3E800000000)] := by
  decide +kernel

theorem test_discard :
    seen (exec (.discard (rq 0)) { ready with tbu := { ready.tbu with differs := true, heldInsert := some 9 } })
      (fun t => (t.tbu.differs, t.tbu.heldInsert, sent t)) =
        some (false, none, [(1024, 0x0907000000000000), (1024, 0x0701000000000000)]) := by decide +kernel

/-- The shadow has the first axle present with a load table; the brakes are released. -/
def insertable : State :=
  { ready with lap := { ready.lap with brakeActive := false }, tbu := { ready.tbu with shadow := (withLoads ready).tbu.active, differs := true } }

theorem test_insert :
    seen (exec (.insert (rq 0)) insertable)
      (fun t => (t.tbu.active.axle[0].present, t.rst.writing.map (·.record.length), t.rst.queue.map (·.length), sent t)) =
        some (true, some 3, [9], [(1024, 0x0701000000000000)]) := by decide +kernel

/-- A shadow without a load table for a present axle fails V1 at LOAD entry 0. -/
theorem test_insert_invalid :
    seen (exec (.insert (rq 0)) { insertable with tbu := { ready.tbu with shadow := (withAxle ready).tbu.active, differs := true } })
      (fun t => (t.tbu.active.axle[0].present, t.apu.alerts[18].flag, (sent t).head?)) =
        some (false, true, some (1024, 0x0705110200000000)) := by decide +kernel

/-- R49: a held insert performed at the entry into STANDBY makes an axle present without starting its stale timer; the return to RUN starts it. -/
theorem test_towPowerLoss_inserting :
    seen (exec .towPowerLoss
        { insertable with
          lap := { insertable.lap with brakeActive := true }, tbu := { insertable.tbu with heldInsert := some 9 },
          lru := { insertable.lru with slotInsert := some 9 } })
      (fun t => (t.apu.power, t.tbu.heldInsert, t.tbu.active.axle[0].present, t.lap.axles[0].staleTimer.isSome,
        seen (exec .towPowerReturn t) fun u => u.lap.axles[0].staleTimer.isSome)) =
      some (.standby, none, true, false, some true) := by decide +kernel

theorem test_requestUnknown : seen (exec (.requestUnknown 24 (rq 0)) live) sent = some [(1024, 0x07040C0000000000)] := by decide +kernel

theorem test_requestNotReady :
    seen (exec (.requestNotReady (.request 16 (rq 0))) restoring) sent = some [(1024, 0x07040B0000000000)] := by decide +kernel

/-- A frame for position 3 passes a part at position 1; one for position 1 is discarded by a part without a position. -/
theorem test_requestNotAddressed :
    seen (exec (.requestNotAddressed (.request 16 { rq 0 with target := 3 })) { live with lru := { live.lru with position := 1 } })
        (fun t => (t.lru.rearTx.map (·.id.toNat), t.lru.towDiscards)) = some (some 280, 0) ∧
      seen (exec (.requestNotAddressed (.request 16 { rq 0 with target := 1 })) live)
        (fun t => (t.lru.rearTx.map (·.id.toNat), t.lru.towDiscards)) = some (none, 1) := by decide +kernel

theorem test_towFrameDiscarded :
    seen (exec (.towFrameDiscarded { id := 0x408, len := 8, data := 1 }) live) (fun t => t.lru.towDiscards) = some 1 := by decide +kernel

theorem test_rearFrame :
    seen (exec (.rearFrame { id := 0x410, len := 8, data := 1 }) live) (fun t => (sent t, t.lru.rearDiscards)) = some ([(0x410, 1)], 0) ∧
      seen (exec (.rearFrame { id := 0x110, len := 8, data := 1 }) live) (fun t => (sent t, t.lru.rearDiscards)) = some ([], 1) := by
  decide +kernel

/-- The tow transmitter busy with one frame, another waiting. -/
def towBusy (s : State) (mark : Bool) : State :=
  { s with lru := { s.lru with towTx := some { frame := ⟨1024, 1⟩, resetDone := mark }, forwardQueue := [{ frame := ⟨1024, 2⟩ }] } }

theorem test_towTxDone : seen (exec .towTxDone (towBusy live false)) sent = some [(1024, 2)] := by decide +kernel

/-- The commanded reset follows RESET's DONE. -/
theorem test_towTxAbandon :
    seen (exec .towTxAbandon (towBusy live true)) (fun t => (sent t, t.apu.cause.commanded, t.rst.restore.isSome)) =
      some ([], true, true) := by decide +kernel

/-- The rear transmitter busy, one frame and a DEMAND copy waiting. -/
def rearBusy (s : State) : State :=
  { s with lru := { s.lru with rearTx := some ⟨280, 1⟩, rearQueue := [⟨280, 2⟩], demandSlot := some ⟨128, 3⟩ } }

theorem test_rearTxDone :
    seen (exec .rearTxDone (rearBusy live)) (fun t => (t.lru.rearTx, t.lru.demandSlot, t.lru.rearQueue.length)) =
      some (some ⟨128, 3⟩, none, 1) := by decide +kernel

theorem test_rearTxAbandon :
    seen (exec .rearTxAbandon { rearBusy live with lru := { (rearBusy live).lru with demandSlot := none } })
      (fun t => (t.lru.rearTx, t.lru.rearQueue.length)) = some (some ⟨280, 2⟩, 0) := by decide +kernel

theorem test_cancel :
    seen (exec (.cancel (rq 0x0300000000)) (heldRelease parked)) (fun t => (t.asv.heldRelease, sent t)) =
      some (none, [(1024, 0x0707000000000000), (1024, 0x0701000000000000)]) := by decide +kernel

/-- Five frames and nothing else: the design revision and the tags of empty slots have no values that Lean could compute. -/
theorem test_identify :
    seen (exec (.identify (rq 0)) live) (fun t => ((sent t).length, { t with lru := live.lru } == live)) = some (5, true) := by
  decide +kernel

/-- BREAKAWAY: rank 1, a condition, URGENT, one alert pending. -/
theorem test_nextAlert :
    seen (exec (.nextAlert (rq 0)) { live with apu := { live.apu with alerts := live.apu.alerts.set 0 { flag := true } } }) sent =
      some [(1024, 0x0701000100010100)] := by decide +kernel

/-- An acknowledged event alert clears, and its ALERT frame follows the answer. -/
theorem test_ackAlert :
    seen (exec (.ackAlert (rq 0x0300000000)) { live with apu := { live.apu with alerts := live.apu.alerts.set 2 { flag := true } } })
      (fun t => (t.apu.alerts[2].flag, sent t)) = some (false, [(1024, 0x0701000000000000), (1408, 0x0300000000000000)]) := by
  decide +kernel

theorem test_reset :
    seen (exec (.reset (rq 0)) parked) (fun t => (t.apu.resetPending, t.lru.towTx.map (·.resetDone))) = some (true, some true) := by
  decide +kernel

theorem test_clearCause :
    seen (exec (.clearCause (rq 0)) live) (fun t => (t.apu.cause, sent t)) =
      some ({ powerOn := false, brownOut := false, commanded := false }, [(1024, 0x0701000000000000)]) := by decide +kernel

/-- The record of `oneRecord` after restore. -/
def stored : State := { parked with rst := { oneRecord.rst with restore := none } }

/-- Header slot 0, kind 3, length 1, byte 4 of the header 0; the data follow in two continuation frames. -/
theorem test_readRecordFirst :
    seen (exec (.readRecordFirst (rq 0x0300000000)) stored) (fun t => ((sent t).head?, (sent t).length, t.rst.cursor)) =
      some (some (1024, 0x0701000000030100), 3, { slot := 0, kind := some .regEntry, passed := true }) := by decide +kernel

theorem test_readRecordNext :
    seen (exec (.readRecordNext (rq 0)) { stored with rst := { stored.rst with cursor := { slot := 0, kind := some .regEntry, passed := true } } })
      (fun t => (sent t, t.rst.cursor)) =
        some ([(1024, 0x0708000000000000)], { slot := 1, kind := some .regEntry, passed := false }) := by decide +kernel

theorem test_eraseStore :
    seen (exec (.eraseStore (rq 0)) stored) (fun t => (t.rst.erase, sent t)) =
      some (some { tag := 7, phase := .erasing }, [(1024, 0x0702000000000000)]) := by decide +kernel

/-- An erase in flight. -/
def erasing : State := { stored with rst := { stored.rst with erase := some { tag := 7, phase := .erasing } } }

theorem test_eraseEnd :
    seen (exec .eraseEnd erasing) (fun t => (t.rst.memory, t.rst.writePos, t.rst.writing.map (·.start))) = some ([], 3, some 0) := by
  decide +kernel

/-- The write of a RESET record at slot 0, at a step. -/
def writing (x : WriteStage) : State :=
  { parked with rst := { parked.rst with
      writing := some { record := resetRecord 5 { powerOn := true }, start := 0, stage := x }, writePos := 1 } }

theorem test_recordSlotWritten :
    seen (exec (.recordSlotWritten none) (writing .valid)) (fun t => (t.rst.writing, t.rst.memory.read 3, t.rst.memory.read 8)) =
      some (none, 1, 5) := by decide +kernel

/-- A slot that does not read back as written is a write fault. -/
theorem test_recordSlotWritten_fault :
    seen (exec (.recordSlotWritten (some (Vector.replicate 16 9))) (writing .header))
      (fun t => (t.rst.writing, t.rst.memory.read 3, t.apu.alerts[20].flag)) = some (none, 9, true) := by decide +kernel

/-- A slot beyond the store is an address that does not exist. -/
theorem test_recordSlotWritten_beyond :
    exec (.recordSlotWritten none)
        { parked with rst := { parked.rst with writing := some { record := resetRecord 5 {}, start := 1024, stage := .header } } } =
      .fault .storeAddress := rfl

/-! ## What meets the hypotheses of the statements

One theorem for each statement of Certificates/Slice0/Obligations.lean that has hypotheses, named after it, with a witness for every clause. -/

/-- The binding that entry 1 of `withTyre` holds is the only one, and so is its identifier. -/
theorem onlyTyre (s : State) (h : s.twu.entries = Vector.replicate 20 none) (b : Binding) (x : Reading) (i : Fin 20) (c : Bound)
    (hc : (withTyre s b x).twu.entries[i] = some c) : i = 0 ∧ c = { ident := 5, binding := b, reading := x } := by
  have e : (withTyre s b x).twu.entries =
      (Vector.replicate 20 none).set 0 (some { ident := 5, binding := b, reading := x }) := by rw [← h]; rfl
  rw [e, Fin.getElem_fin, Vector.getElem_set] at hc
  split at hc
  · rename_i hi
    exact ⟨Fin.ext hi.symm, (Option.some.inj hc).symm⟩
  · simp at hc

theorem noTyre (s : State) (h : s.twu.entries = Vector.replicate 20 none) (i : Fin 20) (c : Bound) (hc : s.twu.entries[i] = some c) :
    False := by
  rw [h] at hc
  simp at hc

theorem withTyre_unique (s : State) (h : s.twu.entries = Vector.replicate 20 none) (b : Binding) (x : Reading) :
    (withTyre s b x).RegistryUnique := fun i j c d hc hd _ =>
  (onlyTyre s h b x i c hc).1.trans (onlyTyre s h b x j d hd).1.symm

theorem empty_unique (s : State) (h : s.twu.entries = Vector.replicate 20 none) : s.RegistryUnique := fun i _ c _ hc _ _ =>
  (noTyre s h i c hc).elim

theorem empty_unheld (s : State) (h : s.twu.entries = Vector.replicate 20 none) (x : BitVec 32) : s.unheld x := fun i b hb =>
  (noTyre s h i b hb).elim

theorem empty_unbound (s : State) (h : s.twu.entries = Vector.replicate 20 none) (b : Binding) : s.unbound b := fun i c hc =>
  (noTyre s h i c hc).elim

theorem empty_goesTo (s : State) (h : s.twu.entries = Vector.replicate 20 none) (b : Binding) : s.goesTo b 0 :=
  Or.inr ⟨empty_unbound s h b, by rw [h]; simp, fun j hj => absurd hj (Nat.not_lt_zero _)⟩

/-- 11.2: the codes of the bindings are 1 to 20. -/
theorem code_range (b : Binding) : 1 ≤ b.code ∧ b.code ≤ 20 := by
  cases b with
  | tyre a side place => cases side <;> cases place <;> simp [Binding.code] <;> omega
  | spare n => simp [Binding.code]; omega

/-- An alert pending at a rank. -/
def alerted (s : State) (k : Fin 23) (ack : Bool) : State :=
  { s with apu := { s.apu with alerts := s.apu.alerts.set k { flag := true, ack := ack } } }

/-- After restore, a state with everything formed is sound. -/
theorem sound_of (s : State) (hr : s.restoring = false)
    (hc : ∀ c : Fin 6, s.wcu.channels[c].command = none ∧ ∀ w : Fin 8, (s.channelEntry c).serves w = false)
    (ha : s.asv.autoParkTimer = none ∧ s.asv.supply ≠ .emergency) (h1 : s.ActivityFollows ∧ s.DemandFollows ∧ s.TargetsFollow)
    (h2 : s.WheelsFollow) (h3 : s.ThresholdsFollow ∧ s.DeflationFollows) (h4 : s.SpeedFollows ∧ s.SuspensionFollows)
    (h5 : s.AlertsFollow ∧ s.AcksHaveFlags ∧ s.LampFollows) : s.Sound where
  fresh h := absurd h (by rw [hr]; decide)
  activity := h1.1
  demand := h1.2.1
  targets := h1.2.2
  wheels := h2
  commands c := by rw [(hc c).1]; exact .inr (hc c).2
  thresholds := h3.1
  deflation := h3.2
  speed := h4.1
  suspension := h4.2
  autoPark := ⟨fun h => absurd h (by rw [ha.1]; decide), fun h => absurd h.1 ha.2⟩
  alerts := h5.1
  acks := h5.2.1
  lamp := h5.2.2

/-- Ready and linked at standstill with BREAKAWAY enabled and URGENT, everything formed, and an air sample of a fallen supply waiting. -/
def settled : State :=
  { (Ev.start { ready with
      asv := { ready.asv with link := .linked, lastDemand := some 0 },
      tbu := { ready.tbu with active := { ready.tbu.active with
        alert := ready.tbu.active.alert.set 0 { enable := true, urgent := true } } } }).react.flush with
    pending := [.airSample 200 700 0 0] }

/-- An intervention at 62.0 km/h on a last sample between the exit thresholds of one deflated tyre and of none; the removal of that tyre
waits. -/
def intervening : State :=
  { (Ev.start { withTyre (withAxle (rolling .intervene)) outer1 { level := .deflated } with
      rou := { (rolling .intervene).rou with lastSample := -230 } }).react.flush with
    pending := [.remove (rq 0x0100000000)] }

theorem settled_sound : settled.Sound := by
  refine sound_of _ (by decide +kernel) (by decide +kernel) (by decide +kernel) ?_ ?_ ?_ ?_ ?_
  · unfold State.ActivityFollows State.DemandFollows State.TargetsFollow; decide +kernel
  · unfold State.WheelsFollow; decide +kernel
  · unfold State.ThresholdsFollow State.DeflationFollows; decide +kernel
  · unfold State.SpeedFollows State.SuspensionFollows; decide +kernel
  · unfold State.AlertsFollow State.AcksHaveFlags State.LampFollows; decide +kernel

theorem intervening_sound : intervening.Sound := by
  refine sound_of _ (by decide +kernel) (by decide +kernel) (by decide +kernel) ?_ ?_ ?_ ?_ ?_
  · unfold State.ActivityFollows State.DemandFollows State.TargetsFollow; decide +kernel
  · unfold State.WheelsFollow; decide +kernel
  · unfold State.ThresholdsFollow State.DeflationFollows; decide +kernel
  · unfold State.SpeedFollows State.SuspensionFollows; decide +kernel
  · unfold State.AlertsFollow State.AcksHaveFlags State.LampFollows; decide +kernel

theorem steps_to (s : State) (f : State → Bool) (h : seen (step s) f = some true) : ∃ t, step s = .next t ∧ f t = true := by
  cases hs : step s with
  | next t => exact ⟨t, rfl, Option.some.inj (by rw [hs] at h; exact h)⟩
  | fault x => rw [hs] at h; cases h
  | refused x => rw [hs] at h; cases h

theorem settled_steps : ∃ t, step settled = .next t :=
  (steps_to settled (fun _ => true) (by decide +kernel)).imp fun _ h => h.1

/-- In restore, a command waiting. -/
def fresh : State := { State.reset with pending := [.secondsTick] }

theorem fresh_sound : fresh.Sound where
  fresh _ :=
    { asv := by decide +kernel, lap := by decide +kernel, trains := by decide +kernel, bus := by decide +kernel,
      channels := by decide +kernel, rou := by decide +kernel, readings := fun i b hb => (noTyre fresh rfl i b hb).elim,
      twu := by decide +kernel, tbu := by decide +kernel, slots := by decide +kernel, apu := by decide +kernel,
      rst := by decide +kernel }
  activity := by unfold State.ActivityFollows; decide +kernel
  demand := by unfold State.DemandFollows; decide +kernel
  targets := by unfold State.TargetsFollow; decide +kernel
  wheels := by unfold State.WheelsFollow; decide +kernel
  commands c := by
    have : fresh.wcu.channels[c].command = none := by revert c; decide +kernel
    rw [this]
    right
    revert c
    decide +kernel
  thresholds := by unfold State.ThresholdsFollow; decide +kernel
  deflation := by unfold State.DeflationFollows; decide +kernel
  speed := by unfold State.SpeedFollows; decide +kernel
  suspension := by unfold State.SuspensionFollows; decide +kernel
  autoPark := ⟨fun h => absurd h (by decide +kernel), fun h => absurd h.1 (by decide +kernel)⟩
  alerts := by unfold State.AlertsFollow; decide +kernel
  acks := by unfold State.AcksHaveFlags; decide +kernel
  lamp := by unfold State.LampFollows; decide +kernel

/-- A part that serves a request to every part. -/
theorem serves_of (s : State) (h : s.apu.power = .run ∧ s.rst.restore = none ∧ s.lru.position = 0) : s.Serves 15 :=
  ⟨h.1, h.2.1, by rw [h.2.2]; rfl⟩

theorem test_hypotheses_StepRunsFrontCommand : live.pending = [] := rfl

theorem test_hypotheses_CommandsEndInANextState : (writing .header).StoreFits where
  writePos := by decide +kernel
  lengths := by decide +kernel
  queue := by decide +kernel
  erasing _ h := absurd h (by simp [writing, parked, live, State.reset])
  rebase _ _ h := absurd h (by simp [writing, parked, live, State.reset])
  room := by decide +kernel
  writing j h := by
    obtain rfl : _ = j := Option.some.inj h
    decide +kernel

theorem test_hypotheses_FramedCommandsDecode :
    Instr.wellFormed (.requestUnknown 24 (rq 0)) = true ∧ (Instr.towFrame (.requestUnknown 24 (rq 0))).isSome = true ∧
      (Instr.chassisFrame (.valveReply 31 2)).isSome = true := by decide +kernel

theorem test_hypotheses_StoreStaysCanonical :
    (oneRecord.StoreWf ∧ ∃ t, step oneRecord = .next t) ∧ (writing .valid).StoreWf ∧
      ∃ t, step { writing .valid with pending := [.recordSlotWritten none] } = .next t :=
  ⟨⟨by unfold State.StoreWf; decide +kernel, _, rfl⟩, by unfold State.StoreWf; decide +kernel, _, rfl⟩

theorem test_hypotheses_StoreStaysWithinSlots : (writing .header).StoreFits ∧ ∃ t, step (writing .header) = .next t :=
  ⟨test_hypotheses_CommandsEndInANextState, _, rfl⟩

theorem test_hypotheses_QueuesStayBounded :
    ((rearBusy live).QueuesBounded ∧ ∃ t, step { rearBusy live with pending := [.rearTxDone] } = .next t) ∧ standby.QuietOutsideRun ∧
      standby.apu.power ≠ .run ∧ live.lru.position ≤ 4 :=
  ⟨⟨by unfold State.QueuesBounded; decide +kernel, _, rfl⟩, by unfold State.QuietOutsideRun; decide +kernel, by decide +kernel,
    by decide +kernel⟩

theorem test_hypotheses_HeldSlotsStayMatched :
    (heldRelease parked).SlotsMatch ∧ (heldService ready).SlotsMatch ∧
      ∃ t, step { heldRelease parked with pending := [.releaseHoldTimerExpiry] } = .next t :=
  ⟨by unfold State.SlotsMatch; decide +kernel, by unfold State.SlotsMatch; decide +kernel, _, rfl⟩

theorem test_hypotheses_RegistryStaysUnique :
    (withTyre ready outer1 {}).RegistryUnique ∧ ∃ t, step { withTyre ready outer1 {} with pending := [.remove (rq 0)] } = .next t :=
  ⟨withTyre_unique ready rfl _ _, _, rfl⟩

theorem test_hypotheses_RestoreStaysFresh :
    fresh.Sound ∧ (∃ t, step fresh = .next t) ∧ fresh.restoring = true :=
  ⟨fresh_sound, ⟨_, rfl⟩, rfl⟩

/-- The sample sets BREAKAWAY, which is enabled and URGENT; a flag is set and clear, of an alert that is told and of one that is not. -/
theorem test_hypotheses_AlertsStayFollowed :
    (settled.Sound ∧ settled.lru.forwardOverflows < 65535 ∧ ∃ t, step settled = .next t ∧
      (t.apu.power = .run && t.rst.restore.isNone && t.lru.forwardOverflows = settled.lru.forwardOverflows &&
        t.tbu.active.alert[0] == settled.tbu.active.alert[0] && t.apu.alerts[0].flag != settled.apu.alerts[0].flag) = true) ∧
    (settled.tbu.active.alert[0].enable = true ∧ settled.tbu.active.alert[0].urgent = true ∧ live.tbu.active.alert[22].urgent = false) ∧
    ((Ev.start (alerted live 0 false)).apu.alerts[0].flag = true ∧ (Ev.start (alerted live 22 false)).apu.alerts[22].flag = true) ∧
    ((Ev.start live).apu.alerts[0].flag = false ∧ (Ev.start live).apu.alerts[22].flag = false) ∧
    (isEventAlert 2 = true ∧ isEventAlert 21 = true) ∧
    (.breakaway, false) ∈ (Ev.start live).conditions ∧ (.combinationTooLong, false) ∈ (Ev.start live).conditions :=
  ⟨⟨settled_sound, by decide +kernel, steps_to _ _ (by decide +kernel)⟩, by decide +kernel, by decide +kernel, by decide +kernel,
    by decide +kernel, by decide +kernel⟩

/-- The reset that `State.AlertsSent` excepts starts restore. -/
theorem test_hypotheses_AlertsStayFollowed_reset (t : State) (h : t.rst.restore.isNone = true) (towPower : Bool) (cause : ResetCause) :
    t ≠ { (settled.afterReset towPower cause) with pending := t.pending } := by
  intro x
  have y := congrArg (fun u : State => u.rst.restore.isNone) x
  rw [h] at y
  exact Bool.noConfusion (show true = false from y)

theorem test_hypotheses_DemandAndActivityStayFollowed : settled.Sound ∧ ∃ t, step settled = .next t := ⟨settled_sound, settled_steps⟩

theorem test_hypotheses_PressuresStayFollowed : settled.Sound ∧ ∃ t, step settled = .next t := ⟨settled_sound, settled_steps⟩

/-- The removal of a deflated tyre raises the exit threshold above the last sample; the hold timer at, above and below it. -/
theorem test_hypotheses_ThresholdsStayFollowed :
    (intervening.Sound ∧ intervening.rou.state = .intervene ∧ ∃ t, step intervening = .next t ∧
      (t.rou.state = .intervene && t.rou.exitT != intervening.rou.exitT && intervening.rou.holdTimer.isNone && t.rou.holdTimer.isSome) = true) ∧
    (Ev.start live).rou.state ≠ .intervene ∧
    (let e := Ev.start intervening
     e.rou.state = .intervene ∧ e.formThresholds.rou.exitT ≤ e.rou.lastSample.natAbs ∧ e.rou.holdTimer = none) ∧
    (let e := Ev.start { intervening with rou := { intervening.rou with lastSample := 227 } }
     e.rou.lastSample.natAbs < e.formThresholds.rou.exitT ∧ e.rou.holdTimer = none) ∧
    (let e := Ev.start { intervening with rou := { intervening.rou with lastSample := 227, holdTimer := five } }
     e.rou.lastSample.natAbs < e.formThresholds.rou.exitT ∧ e.rou.holdTimer ≠ none) :=
  ⟨⟨intervening_sound, by decide +kernel, steps_to _ _ (by decide +kernel)⟩, by decide +kernel, by decide +kernel, by decide +kernel,
    by decide +kernel⟩

/-- The sample starts the auto-park timer. -/
theorem test_hypotheses_SpeedAndOutputStayFollowed :
    settled.Sound ∧ settled.asv.autoParkTimer = none ∧ ∃ t, step settled = .next t ∧ t.asv.autoParkTimer.isSome = true :=
  ⟨settled_sound, by decide +kernel, steps_to _ _ (by decide +kernel)⟩

/-- A supervisor in a supply state with a last air sample; the factory emergency demand is 800. -/
def supplied (x : SupplyState) (l : LinkState) (air : Option AirSample) : State :=
  { live with asv := { live.asv with supply := x, link := l, lastAir := air } }

theorem test_hypotheses_EffectiveDemandIsFormed :
    (supplied .ready .linked none).asv.link = .linked ∧
      ((supplied .ready .unlinked (some ⟨1, 2, 3⟩)).asv.link = .unlinked ∧
        (supplied .ready .unlinked (some ⟨1, 2, 3⟩)).asv.lastAir = some ⟨1, 2, 3⟩) ∧
      ((supplied .ready .unlinked none).asv.link = .unlinked ∧ (supplied .ready .unlinked none).asv.lastAir = none) ∧
      (supplied .parked .unlinked none).asv.supply = .parked ∧
      ((supplied .emergency .unlinked none).asv.supply = .emergency ∧ demandSource (supplied .emergency .unlinked none).asv = none) ∧
      (demandSource (supplied .emergency .unlinked (some ⟨1, 2, 799⟩)).asv = some 799 ∧
        demandSource (supplied .emergency .unlinked (some ⟨1, 2, 800⟩)).asv = some 800 ∧
        (supplied .emergency .unlinked none).tbu.active.supply.emergencyDemand = 800) ∧
      ((supplied .ready .unlinked none).asv.supply ≠ .parked ∧ (supplied .ready .unlinked none).asv.supply ≠ .emergency) ∧
      live.asv.dEff = none := by decide +kernel

/-- Axle 1 with two breakpoints. -/
def twoLoads : LoadTable := (withLoads live).tbu.active.load

theorem test_hypotheses_LoadsRatiosAndTargetsAreFormed :
    (2 ≤ twoLoads.counts[(0 : Fin 4)] ∧ twoLoads.counts[(0 : Fin 4)] ≤ 8 ∧
      (∀ j, j < twoLoads.counts[(0 : Fin 4)] →
        twoLoads.points[8 * (0 : Fin 4).val + j]? = some { bag := 100 + 200 * j, load := 200 + 400 * j }) ∧
      (∀ j, j + 1 < twoLoads.counts[(0 : Fin 4)] → 100 + 200 * j < 100 + 200 * (j + 1) ∧ 200 + 400 * j ≤ 200 + 400 * (j + 1))) ∧
    (100 ≤ 100 + 200 * 0 ∧ 100 + 200 * (twoLoads.counts[(0 : Fin 4)] - 1) ≤ 300 ∧ 100 + 200 * 0 ≤ 100 ∧ 299 < 100 + 200 * (0 + 1)) ∧
    (0 < (withAxle live).tbu.active.axle[0].lRated ∧ (withLoad ready .live).lap.axles[0].lF = some 500 ∧
      (withLoad ready .live).lap.axles[0].status = .live ∧ (withLoad ready .stale).lap.axles[0].status = .stale ∧
      (withLoad ready .unknown).lap.axles[0].status = .unknown ∧ (withLoad ready .fallback).lap.axles[0].status = .fallback ∧
      (withAxle live).tbu.active.axle[0].rMin ≤ (withAxle live).tbu.active.axle[0].fallback ∧
      (withAxle live).tbu.active.axle[0].rMin ≤ 1000 ∧ (withAxle live).tbu.active.axle[0].fallback ≤ 1000) ∧
    ((300 : Nat) ≤ 300 ∧ (1000 : Nat) ≤ 1000 ∧ (30 : Nat) ≤ 30 ∧ (30 : Nat) < 31) := by
  refine ⟨⟨by decide +kernel, by decide +kernel, ?_, ?_⟩, by decide +kernel, by decide +kernel, by decide⟩
  · have h : twoLoads.counts[(0 : Fin 4)] = 2 := by decide +kernel
    rw [h]
    decide +kernel
  · intro j _
    omega

/-- A load record with L_f 500 and the take-whole mark clear. -/
def filtered : LoadRecord := { lF := some 500, status := .live, takeWhole := false }

theorem test_hypotheses_LoadFilterReachesTheRawLoad :
    (filtered.lF = some 500 ∧ filtered.wholeMark = false) ∧ (4 : Nat) ≤ 4 ∧ ((503 : Nat) - (500 : Nat) : Int).natAbs < 4 ∧
      ¬((504 : Nat) - (500 : Nat) : Int).natAbs < 4 ∧ ((3000 : Nat) - (0 : Nat) : Int).natAbs ≤ 3000 := by decide +kernel

/-- The factory ROLL table: thresholds 400 at the loads 0 and 12,000. -/
theorem test_hypotheses_TabledThresholdIsInterpolated :
    (2 ≤ Tables.factory.roll.count ∧ Tables.factory.roll.count ≤ 6 ∧
      (∀ j, j < Tables.factory.roll.count → Tables.factory.roll.points[j]? = some { load := 12000 * j, threshold := 400 }) ∧
      (∀ j, j + 1 < Tables.factory.roll.count → 12000 * j < 12000 * (j + 1) ∧ (400 : Nat) ≤ 400)) ∧
    (0 ≤ 12000 * 0 ∧ 12000 * (Tables.factory.roll.count - 1) ≤ 12000 ∧ 12000 * 0 ≤ 0 ∧ 11999 < 12000 * (0 + 1)) := by
  refine ⟨⟨by decide +kernel, by decide +kernel, ?_, fun j _ => by omega⟩, by decide +kernel⟩
  have h : Tables.factory.roll.count = 2 := by decide +kernel
  rw [h]
  decide +kernel

theorem test_hypotheses_SignsAndSidesAreFormed :
    Sign.positive.reversed 0 = false ∧ Sign.positive.reversed 1 = false ∧ Sign.positive.reversed (-1) = true ∧
      Sign.negative.reversed 1 = true ∧ Sign.negative.reversed (-1) = false := by decide +kernel

theorem test_hypotheses_TyreThresholdsAreFormed :
    (200 ≤ 200 ∧ 200 ≤ 1200 ∧ -40 ≤ (-40 : Int) ∧ (-40 : Int) ≤ 150) ∧ (200 ≤ 1200 ∧ 1200 ≤ 1200 ∧ -40 ≤ (150 : Int) ∧ (150 : Int) ≤ 150) ∧
      Tables.factory.tyre.deflate < Tables.factory.tyre.alarm ∧ Tables.factory.tyre.alarm < Tables.factory.tyre.warn ∧
      Tables.factory.tyre.warn < 1000 ∧ 1000 < Tables.factory.tyre.high := by decide +kernel

/-- With adj 800 the factory thresholds are 400, 600, 680 and 1,000, and the exit limits 612 and 693. -/
theorem test_hypotheses_TyreLevelsAreFormed :
    let y := Tables.factory.tyre
    ((399 : Int) < tyreThreshold 800 y.deflate ∧ ((99 : Nat) < 100) ∧ (679 : Int) < tyreThreshold 800 y.warn) ∧
      (¬((400 : Int) < tyreThreshold 800 y.deflate ∨ (400 : Nat) < 100 ∨ (false = true ∧ (400 : Int) < tyreThreshold 800 y.warn)) ∧
        (599 : Int) < tyreThreshold 800 y.alarm) ∧
      (tyreThreshold 800 y.alarm ≤ 600 ∧ (679 : Int) < tyreThreshold 800 y.warn) ∧
      (tyreThreshold 800 y.warn ≤ 680 ∧ tyreThreshold 800 y.high < 1001 ∧ (1000 : Int) ≤ tyreThreshold 800 y.high) ∧
      (Level.normal ≠ .lowWarn ∧ Level.normal ≠ .lowAlarm ∧ Level.normal ≠ .deflated ∧ Level.missing ≠ .lowWarn) ∧
      ((95 : Int) ≤ 95 ∧ (90 : Int) ≤ 95 - 5 ∧ (95 : Int) - 5 < 91 ∧ (94 : Int) < 95) ∧
      ((Ev.start (withTyre live outer1 {})).twu.entries[(0 : Fin 20)] = some { ident := 5, binding := outer1 } ∧
        bindingValid (withAxle live).tbu.active.axle outer1 = true ∧ bindingValid live.tbu.active.axle outer1 = false) := by decide +kernel

/-! ### Resets, restore and power -/

theorem test_hypotheses_ResetsRestartThePart :
    ((towBusy live true).lru.towTx = some { frame := ⟨1024, 1⟩, resetDone := true }) ∧
      (live.apu.power = .run ∧ live.rst.restore = none) ∧
      (∃ f ∈ ({ live with lru := { live.lru with forwardQueue := [{ frame := ⟨1024, 1⟩, resetDone := true }] },
                          apu := { live.apu with resetPending := true } } : State).lru.forwardQueue, f.resetDone = true) ∧
      oneRecord.StoreWf ∧ ((0 : Nat) < 1024 ∧ oneRecord.rst.memory.read (16 * 0) ≠ 255) :=
  ⟨rfl, ⟨rfl, rfl⟩, ⟨_, List.mem_singleton.2 rfl, rfl⟩, by unfold State.StoreWf; decide +kernel, by decide +kernel⟩

/-- A recognised record of one slot in slot 0, of a kind, a state, a table code and data. -/
def scanned (kind state byte4 : Byte) (data : List Byte) : State :=
  { State.reset with rst := { State.reset.rst with
      writePos := 1, memory := Memory.writeSlot [] 0 (slotOfList ([1, kind, 1, state, byte4] ++ data)) } }

theorem test_hypotheses_RestoreReadsSlots :
    (State.reset.rst.restore = some {} ∧ (scanned 3 1 0 [3, 0, 0, 0, 5, 17]).rst.restore = some {} ∧
      (0 : Nat) < (scanned 3 1 0 [3, 0, 0, 0, 5, 17]).rst.writePos) ∧
    recordAt [] 1 0 = none ∧
    (let m := (scanned 1 1 0 []).rst.memory
     recordAt m 1 0 = some 1 ∧ stateAt m 0 = 1 ∧ kindAt m 0 ≠ some .table ∧ kindAt m 0 ≠ some .regEntry) ∧
    (let m := (scanned 2 0 1 []).rst.memory
     recordAt m 1 0 = some 1 ∧ stateAt m 0 ≠ 1) ∧
    (let m := (scanned 2 1 7 []).rst.memory
     recordAt m 1 0 = some 1 ∧ stateAt m 0 = 1 ∧ kindAt m 0 = some .table ∧ TableId.ofCode (m.read (16 * 0 + 4)).toNat = some .alert) ∧
    (let m := (scanned 2 1 8 []).rst.memory
     recordAt m 1 0 = some 1 ∧ stateAt m 0 = 1 ∧ kindAt m 0 = some .table ∧ TableId.ofCode (m.read (16 * 0 + 4)).toNat = none) ∧
    (let m := (scanned 3 1 0 [21, 0, 0, 0, 5, 17]).rst.memory
     recordAt m 1 0 = some 1 ∧ stateAt m 0 = 1 ∧ kindAt m 0 = some .regEntry ∧ regEntryOf (dataAt m 0 1) = none) ∧
    (let m := (scanned 3 1 0 [3, 0, 0, 0, 0, 0]).rst.memory
     kindAt m 0 = some .regEntry ∧ regEntryOf (dataAt m 0 1) = some (2, none)) ∧
    (let m := (scanned 3 1 0 [3, 0, 0, 0, 5, 17]).rst.memory
     kindAt m 0 = some .regEntry ∧ regEntryOf (dataAt m 0 1) = some (2, some (5, .spare 0))) := by decide +kernel

theorem test_hypotheses_RestoreEnds :
    (State.reset.rst.restore = some {} ∧ State.reset.rst.writePos ≤ 0 ∧ State.reset.apu.towPower = true) ∧ State.reset.SlotsMatch ∧
      (({ State.reset with apu := { State.reset.apu with towPower := false, power := .standby } } : State).apu.towPower = false) := by
  unfold State.SlotsMatch
  decide +kernel

theorem test_hypotheses_TowPowerComesAndGoes :
    (live.apu.power = .run ∧ live.rst.restore = none ∧ live.apu.resetPending = false) ∧ live.SlotsMatch ∧
      (State.reset.rst.restore ≠ none ∧ standby.apu.power ≠ .run ∧ standby.rst.restore = none) ∧
      (standby.apu.power = .standby ∧ standby.apu.standbyTimer ≠ none) ∧
      (live.apu.power ≠ .standby ∨ live.apu.standbyTimer = none) := by
  unfold State.SlotsMatch
  decide +kernel

theorem test_hypotheses_TicksPassAndStatusIsSent :
    live.apu.statusTimer = none ∧
      (let s : State := { live with apu := { live.apu with statusTimer := five } }
       s.apu.statusTimer ≠ none ∧ s.apu.power = .run ∧ s.roomForward 1) ∧
      ((alerted live 0 false).isPending 0 = true ∧ (alerted live 22 false).isPending 22 = true ∧
        ∀ j : Fin 23, j < 22 → (alerted live 22 false).isPending j = false) ∧
      ∀ k : Fin 23, live.isPending k = false := by
  unfold State.roomForward
  decide +kernel

/-! ### Air supply, parking and demands -/

theorem test_hypotheses_AirSamplesAreTested :
    (live.apu.power = .run ∧ (0 : Byte) = 0) ∧ standby.apu.power ≠ .run ∧ (1 : Byte) ≠ 0 := by decide +kernel

theorem test_hypotheses_AirTimersExpire :
    (let s : State := { live with asv := { live.asv with airTimer := five, linkTimer := five, autoParkTimer := five } }
     s.asv.airTimer ≠ none ∧ s.asv.linkTimer ≠ none ∧ s.asv.autoParkTimer ≠ none) ∧
      live.asv.airTimer = none ∧ live.asv.linkTimer = none ∧ live.asv.autoParkTimer = none := by decide +kernel

/-- The position is 0 in `live`: hop 0 changes it and hop 4 does not. -/
theorem test_hypotheses_DemandFramesAreTaken :
    (live.apu.power = .run ∧ live.SlotsMatch ∧ live.roomForward (heldRelease parked).endedByMove.length) ∧
      ((heldRelease parked).SlotsMatch ∧ (heldRelease parked).endedByMove = [7]) ∧ standby.apu.power ≠ .run := by
  unfold State.SlotsMatch State.roomForward
  decide +kernel

theorem test_hypotheses_ValveOperationsProceed :
    live.asv.valveOp = none ∧ ((withOp live .apply (some 7)).asv.valveOp = some (sentOp .apply (some 7)) ∧ (withOp live .apply (some 7)).apu.power = .run ∧
        (sentOp .apply (some 7)).phase ≠ .pending ∧ (sentOp .apply (some 7)).kind ≠ .release ∧
        (withOp live .apply (some 7)).roomForward (sentOp .apply (some 7)).requester.toList.length) ∧
      (sentOp .release none).kind ≠ .apply ∧ (sentOp .release none).kind = .release ∧ (sentOp .apply none).kind = .apply ∧
      ((4 : Byte) ≠ 1 ∧ (4 : Byte) ≠ 2 ∧ (4 : Byte) ≠ 3) ∧
      (({ sentOp .query none with phase := .pending } : ValveOp).phase = .pending ∧ (30 : BitVec 5) ≠ 31) ∧
      ((sentOp .query none).polls = { length := 5, since := 0 } :: [] ∧ (sentOp .query none).valveTimer ≠ none) ∧
      (waitingValve .query none false).polls = [] ∧ (waitingValve .query none false).valveTimer = none := by
  unfold State.roomForward
  decide +kernel

theorem test_hypotheses_HeldTimersExpire :
    (live.apu.power = .run ∧ live.roomForward 1) ∧
      ((heldRelease parked).asv.heldRelease = some { tag := 7, timer := five } ∧ live.asv.heldRelease = none) ∧
      ((heldService ready).wcu.service = .held 7 { channel := 0, pressure := 300, count := 2, pulse := 100 } five ∧
        live.wcu.service.heldTag = none) ∧
      ((learning live).twu.learn = some { binding := outer1, tag := 7, timer := five, answered := [] } ∧ live.twu.learn = none) ∧
      ((halved live).twu.half = some { binding := outer1, tag := 7, timer := five } ∧ live.twu.half = none) := by
  unfold State.roomForward
  decide +kernel

/-- An air sample at the release conditions, the factory thresholds being 600 and 450. -/
def pressed (s : State) : State := { s with asv := { s.asv with lastAir := some ⟨450, 600, 0⟩ } }

theorem test_hypotheses_ParkRequestsAreDecided :
    ((rq 0).target = 15 ∧ ready.Serves 15 ∧ parked.Serves 15 ∧ ready.SlotsMatch ∧ (heldRelease parked).SlotsMatch ∧ ready.roomForward 3) ∧
      (20 < moving.wcu.refSpeed ∧ moving.Serves 15 ∧ moving.SlotsMatch) ∧
      (parked.wcu.refSpeed ≤ 20 ∧ parked.asv.supply = .parked) ∧
      (ready.asv.supply ≠ .parked ∧ (withOp ready .apply (some 9)).asv.valveOp = some (sentOp .apply (some 9)) ∧
        (sentOp .apply (some 9)).requester ≠ none ∧ (sentOp .apply none).requester = none) ∧
      (∀ op, (withOp ready .query (some 9)).asv.valveOp = some op → op.kind ≠ .apply) ∧
      (ready.releaseOver.withValve .apply (some 7) false).Calm ∧
      (∃ op, (withOp parked .release none).asv.valveOp = some op ∧ op.kind = .release) ∧ (heldRelease parked).asv.heldRelease ≠ none ∧
      (¬((∃ op, parked.asv.valveOp = some op ∧ op.kind = .release) ∨ parked.asv.heldRelease ≠ none)) ∧ (pressed parked).airReleases ∧
      (¬parked.airReleases) ∧ (rq 0).flags.toNat % 2 = 0 ∧ (rqHold 0).flags.toNat % 2 = 1 :=
  ⟨⟨rfl, serves_of _ (by decide +kernel), serves_of _ (by decide +kernel), by unfold State.SlotsMatch; decide +kernel,
      by unfold State.SlotsMatch; decide +kernel, by unfold State.roomForward; decide +kernel⟩,
    ⟨by decide +kernel, serves_of _ (by decide +kernel), by unfold State.SlotsMatch; decide +kernel⟩, by decide +kernel,
    by decide +kernel, fun op h => by obtain rfl : sentOp .query (some 9) = op := Option.some.inj h; decide,
    ⟨rfl, rfl⟩, ⟨_, rfl, rfl⟩, by decide +kernel,
    fun h => h.elim (fun ⟨_, h, _⟩ => absurd h (by simp [parked, live, State.reset])) (fun h => h rfl), ⟨_, rfl, by decide +kernel, by decide +kernel⟩,
    fun ⟨_, h, _⟩ => absurd h (by simp [parked, live, State.reset]), by decide +kernel, by decide +kernel⟩

/-! ### Loads, channels and trains -/

theorem test_hypotheses_SensorsAreHeardOrMissed :
    ((1 : Byte).toNat = (0 : Fin 4).val + 1 ∧ (4 : Byte).toNat = (3 : Fin 4).val + 1 ∧ (withAxle ready).apu.power = .run ∧
        (withAxle ready).rst.restore = none ∧ (withAxle ready).tbu.active.axle[(0 : Fin 4)].present = true) ∧
      (ready.tbu.active.axle[(0 : Fin 4)].present = false ∧ standby.apu.power ≠ .run ∧ restoring.rst.restore ≠ none ∧ (1 : Byte) ≠ 0) ∧
      ((withLoad ready .unknown).lap.axles[(0 : Fin 4)].staleTimer ≠ none ∧
        (withLoad ready .unknown).lap.axles[(0 : Fin 4)].status = .unknown ∧
        (withLoad ready .live).lap.axles[(0 : Fin 4)].status = .live ∧ (withLoad ready .stale).lap.axles[(0 : Fin 4)].status = .stale ∧
        (withLoad ready .fallback).lap.axles[(0 : Fin 4)].status = .fallback) ∧
      (ready.lap.axles[(0 : Fin 4)].staleTimer = none ∧ ready.lap.axles[(0 : Fin 4)].fallbackTimer = none ∧
        (withLoad ready .stale).lap.axles[(0 : Fin 4)].fallbackTimer ≠ none) ∧
      live.twu.entries[(0 : Fin 20)] = none ∧
      ((withTyre live outer1 { missingTimer := five }).twu.entries[(0 : Fin 20)] =
          some { ident := 5, binding := outer1, reading := { missingTimer := five } } ∧
        ({ missingTimer := five } : Reading).missingTimer ≠ none ∧ ({} : Reading).missingTimer = none) := by decide +kernel

/-- Channels 1 and 3 request transmission, with a command and without; the bus is free. -/
def requesting (mode : PriorityMode) (c : Option Nat) : State :=
  { ready with
    wcu := { ready.wcu with channels := (ready.wcu.channels.set 0 { request := true, command := c }).set 2 { request := true, command := c } },
    tbu := { ready.tbu with active := { ready.tbu.active with channel := { ready.tbu.active.channel with mode := mode } } } }

theorem test_hypotheses_ChassisTransmitterChooses :
    (restoring.BusHalted ∧ standby.BusHalted) ∧ ¬ready.BusHalted ∧
      (¬({ ready with wcu := { ready.wcu with pendingValve := some .query } } : State).BusHalted) ∧
      (ready.wcu.pendingValve = none ∧ ∀ c : Fin 6, ready.wcu.channels[c].request = false) ∧
      ((requesting .fixed (some 300)).tbu.active.channel.mode = .fixed ∧ (requesting .fixed (some 300)).wcu.channels[(0 : Fin 6)].request = true ∧
        (∀ d : Fin 6, d < 0 → (requesting .fixed (some 300)).wcu.channels[d].request = false) ∧
        (requesting .fixed (some 300)).wcu.channels[(0 : Fin 6)].command = some 300 ∧
        (requesting .fixed none).wcu.channels[(0 : Fin 6)].command = none ∧
        (let s : State := { requesting .fixed none with asv := { ready.asv with supply := .parked } }
         s.asv.supply = .parked ∧ s.wcu.service = .none ∧ s.sentPressure 0 = 0)) ∧
      ((requesting .rotating (some 300)).tbu.active.channel.mode = .rotating ∧
        ({ requesting .rotating (some 300) with wcu := { (requesting .rotating (some 300)).wcu with ranking := [1, 2, 0, 3, 4, 5] } } :
          State).wcu.ranking = [1] ++ 2 :: [0, 3, 4, 5] ∧ (2 : Fin 6) ∉ [1] ++ [0, 3, 4, 5] ∧
        (requesting .rotating (some 300)).wcu.channels[(2 : Fin 6)].request = true ∧
        ∀ d ∈ [(1 : Fin 6)], (requesting .rotating (some 300)).wcu.channels[d].request = false) := by
  unfold State.BusHalted
  decide +kernel

/-- What `State.ClosesTo` supposes: a halted transmitter, a valve command that waits, and a chosen channel in both modes, whose miss count does
not reach 3 or does; R55 raises a request and does not. -/
theorem test_hypotheses_ClosesTo :
    (live.NotReleased live ∧ restoring.BusHalted ∧ ({ ready with wcu := { ready.wcu with pendingValve := some .query } } : State).wcu.pendingValve ≠ none) ∧
    (¬ready.BusHalted ∧ ready.wcu.pendingValve = none) ∧
    (requesting .fixed (some 300)).chooses (requesting .fixed (some 300)).wcu.channels 0 [0, 1, 2, 3, 4, 5] ∧
    (requesting .rotating (some 300)).chooses (requesting .rotating (some 300)).wcu.channels 0 [1, 2, 3, 4, 5, 0] ∧
    ((requesting .fixed none).channelSent 0 300 []).wcu.channels[(0 : Fin 6)].missCount < 3 ∧
    (((withChannel1 ready).raises 0 (some 10) ∧ ¬(withChannel1 ready).raises 0 (some 9)) ∧ ¬ready.raises 0 (some 10)) := by
  refine ⟨⟨.inl rfl, .inr (.inl (by decide +kernel)), by decide +kernel⟩, ⟨?_, by decide +kernel⟩, ⟨by decide +kernel, rfl, ?_⟩,
    ⟨by decide +kernel, [], [1, 2, 3, 4, 5], by decide +kernel, by decide, fun d h => absurd h (by simp), rfl⟩, by decide +kernel,
    ⟨⟨by decide +kernel, by decide +kernel, by decide +kernel, 10, rfl, .inl (by decide +kernel)⟩, ?_⟩, fun h => absurd h.1 (by decide +kernel)⟩
  · unfold State.BusHalted; decide +kernel
  · intro d h; exact absurd h (Nat.not_lt_zero _)
  · rintro ⟨_, _, _, p, h, x⟩
    obtain rfl := Option.some.inj h
    revert x
    decide +kernel

/-- What its clauses on the hold timer suppose: no insert is held; INTERVENE with k as it was and with k changed, the registry change being the
event's own effect; and another state. -/
theorem test_hypotheses_ClosesTo_hold :
    (∃ t, step intervening = .next t ∧ (intervening.tbu.heldInsert.isNone && decide (intervening.rou.state = .intervene) &&
      decide (t.rou.k ≠ intervening.rou.k)) = true) ∧
    (∃ t, step { intervening with pending := [.lateralSample 100 0] } = .next t ∧
      (decide (t.lap.totalLoad = intervening.lap.totalLoad) && decide (t.rou.k = intervening.rou.k)) = true) ∧
    live.tbu.heldInsert = none ∧ live.rou.state ≠ .intervene :=
  ⟨steps_to _ _ (by decide +kernel), steps_to _ _ (by decide +kernel), by decide +kernel, by decide +kernel⟩

/-- Channel 1 present and unmasked, its refresh timer running, output resumed or suspended. -/
def refreshing (suspended : Bool) : State :=
  { withChannel1 ready with wcu := { ready.wcu with suspended := suspended, channels := ready.wcu.channels.set 0 { refreshTimer := five } } }

theorem test_hypotheses_ChassisTransmitterFrees :
    (({ live with wcu := { live.wcu with tx := some ⟨5, 6⟩ } } : State).wcu.tx ≠ none ∧ live.wcu.tx = none) ∧
      ((refreshing false).wcu.channels[(0 : Fin 6)].refreshTimer ≠ none ∧
        ((refreshing false).tbu.active.channel.entries[(0 : Fin 6)].present = true ∧ (refreshing false).wcu.channels[(0 : Fin 6)].mask = none ∧
          (refreshing false).wcu.suspended = false)) ∧
      ((refreshing true).wcu.channels[(0 : Fin 6)].refreshTimer ≠ none ∧
        ¬((refreshing true).tbu.active.channel.entries[(0 : Fin 6)].present = true ∧ (refreshing true).wcu.channels[(0 : Fin 6)].mask = none ∧
          (refreshing true).wcu.suspended = false)) ∧
      live.wcu.channels[(5 : Fin 6)].refreshTimer = none := by decide +kernel

theorem test_hypotheses_RepliesAndUnmasking :
    (((refreshing false).tbu.active.channel.entries[(0 : Fin 6)].present = true ∧ (refreshing false).wcu.channels[(0 : Fin 6)].mask = none ∧
        (refreshing false).tbu.active.channel.entries[(0 : Fin 6)].node = (1 : BitVec 5).toNat) ∧ (refreshing false).wcu.suspended = false) ∧
      (∀ c : Fin 6, ¬(live.tbu.active.channel.entries[c].present = true ∧ live.wcu.channels[c].mask = none ∧
        live.tbu.active.channel.entries[c].node = (1 : BitVec 5).toNat)) ∧
      (refreshing true).wcu.suspended = true ∧
      (((rq 0).arg 0 = 0 ∧ 6 < (rq 0x0700000000).arg 0) ∧ (rq 0x0100000000).arg 0 = (0 : Fin 6).val + 1 ∧
        (rq 0x0600000000).arg 0 = (5 : Fin 6).val + 1) ∧
      (ready.tbu.active.channel.entries[(0 : Fin 6)].present = false ∧ (withChannel1 ready).tbu.active.channel.entries[(0 : Fin 6)].present = true) ∧
      (withChannel1 ready).Serves 15 ∧ (withChannel1 ready).roomForward 1 ∧ (withChannel1 ready).Calm :=
  ⟨by decide +kernel, by decide +kernel, by decide +kernel, by decide +kernel, by decide +kernel, serves_of _ (by decide +kernel),
    by unfold State.roomForward; decide +kernel, by unfold State.Calm; decide +kernel⟩

/-- A state with both trains in GAP at a count. -/
def trained (n : Nat) (x : Service) : State := { ready with wcu := { ready.wcu with trainA := gap n, trainB := gap n, service := x } }

theorem test_hypotheses_PulseTrainsTick :
    ((trained 2 .none).wcu.trainA.timer ≠ none ∧ ¬(trained 2 .none).wcu.trainA.ends) ∧
      ((trained 1 .none).wcu.trainA.timer ≠ none ∧ (trained 1 .none).wcu.trainA.ends) ∧ ready.wcu.trainA.timer = none ∧
      ((trained 2 (.running 7 0)).wcu.trainB.timer ≠ none ∧ ¬(trained 2 (.running 7 0)).wcu.trainB.ends) ∧
      (∀ tag c, (trained 1 .none).wcu.service ≠ .running tag c) ∧
      ((trained 1 (.running 7 0)).wcu.trainB.timer ≠ none ∧ (trained 1 (.running 7 0)).wcu.trainB.ends ∧
        (trained 1 (.running 7 0)).wcu.service = .running 7 0 ∧ (trained 1 (.running 7 0)).apu.power = .run ∧
        (trained 1 (.running 7 0)).roomForward 1) ∧ ready.wcu.trainB.timer = none := by
  unfold PulseTrain.ends State.roomForward
  refine ⟨by decide +kernel, by decide +kernel, by decide +kernel, by decide +kernel, fun _ _ h => Service.noConfusion h, by decide +kernel,
    by decide +kernel⟩

/-- Channel 1, 300 kPa, 2 pulses of 100 ms; the least and the greatest arguments. -/
theorem test_hypotheses_ServiceActuateIsDecided :
    (serviceArgsOf (rq 0x0110010032) { channel := 0, pressure := 1, count := 1, pulse := 50 } ∧
      serviceArgsOf (rq 0x0683E803E8) { channel := 5, pressure := 1000, count := 8, pulse := 1000 } ∧
      (∀ a, ¬serviceArgsOf (rq 0) a)) ∧
    ((withChannel1 ready).Serves 15 ∧ (withChannel1 ready).roomForward 1) ∧
    ((heldService ready).wcu.service ≠ .none ∧ ready.wcu.service = .none) ∧
    ((withChannel1 ready).serviceMeets 0 6 ∧ ¬ready.serviceMeets 0 6 ∧ (rqHold 0).flags.toNat % 2 = 1 ∧ (rq 0).flags.toNat % 2 = 0) ∧
    (moving.serviceMeets 0 1 ∧ ¬moving.serviceMeets 0 2) ∧ (live.serviceMeets 0 2 ∧ ¬live.serviceMeets 0 3) ∧
    ((let s : State := { ready with asv := { ready.asv with supply := .charging } }
      s.serviceMeets 0 3 ∧ ¬s.serviceMeets 0 4)) ∧
    ((let s : State := { ready with rou := { ready.rou with state := .watch } }
      s.serviceMeets 0 4 ∧ ¬s.serviceMeets 0 5)) ∧ (ready.serviceMeets 0 5 ∧ ¬ready.serviceMeets 0 6) := by
  refine ⟨⟨by unfold serviceArgsOf; decide +kernel, by unfold serviceArgsOf; decide +kernel, fun a h => ?_⟩,
    ⟨serves_of _ (by decide +kernel), by unfold State.roomForward; decide +kernel⟩, by decide +kernel, ?_, ?_, ?_, ?_, ?_, ?_⟩
  · have h0 : (rq 0).arg 0 = a.channel.val + 1 := h.1
    have h1 : (rq 0).arg 0 = 0 := by decide +kernel
    omega
  all_goals
    unfold State.serviceMeets
    simp only [withChannel1, withAxle, ready, moving, live, State.reset]
    simp
  all_goals decide +kernel

/-- A running service actuation on channel 1, masked or not. -/
def runningService (mask : Option MaskCause) (speed : Nat) : State :=
  { withChannel1 ready with wcu := { (withChannel1 ready).wcu with
      service := .running 7 0, refSpeed := speed, channels := ready.wcu.channels.set 0 { mask := mask } } }

theorem test_hypotheses_ServiceFollowsItsConditions :
    ready.wcu.service = .none ∧ (heldService ready).wcu.service = .held 7 { channel := 0, pressure := 300, count := 2, pulse := 100 } five ∧
      (runningService none 20).wcu.service = .running 7 0 ∧
      ((runningService (some .lost) 20).wcu.channels[(0 : Fin 6)].mask ≠ none ∧ (runningService none 20).wcu.channels[(0 : Fin 6)].mask = none) ∧
      ((runningService none 20).wcu.refSpeed ≤ 20 ∧ (runningService none 20).asv.dEff = some 0 ∧
        (runningService none 20).asv.supply ≠ .emergency ∧ (runningService none 20).rou.state = .quiet) ∧
      ¬(runningService none 21).wcu.refSpeed ≤ 20 := by decide +kernel

/-! ### The rollover unit -/

/-- The rollover unit in a state with watch 280, probe 340 and limit 400, moving or standing, POSITIVE or NEGATIVE. -/
def tipping (x : Stability) (speed : Nat) (g : Sign) : State :=
  { withChannel1 ready with
    wcu := { (withChannel1 ready).wcu with refSpeed := speed, trainA := { armed := true } }, rou := { ready.rou with state := x, sign := g } }

/-- Every line of the tests of a lateral sample is met at a boundary value. -/
theorem test_hypotheses_LateralSamplesAreTested :
    (live.apu.power = .run ∧ live.rst.restore = none ∧ live.rou.state ≠ .off .disabled) ∧ (0 : Byte) = 0 ∧ (1 : Byte) ≠ 0 ∧
    (∃ E, (tipping .quiet 620 .positive).LateralEffect 279 E) ∧ (∃ E, (tipping .quiet 620 .positive).LateralEffect 280 E) ∧
    (∃ E, (tipping .quiet 620 .positive).LateralEffect 400 E) ∧ (∃ E, (tipping .watch 620 .positive).LateralEffect 279 E) ∧
    (∃ E, (tipping .watch 620 .positive).LateralEffect 400 E) ∧ (∃ E, (tipping .intervene 299 .positive).LateralEffect 400 E) ∧
    (∃ E, (tipping .intervene 300 .positive).LateralEffect (-1) E) ∧ (∃ E, (tipping .intervene 300 .positive).LateralEffect 0 E) ∧
    (∃ E, (tipping .holdoff 300 .positive).LateralEffect 400 E) ∧ (∃ E, (tipping .holdoff 300 .positive).LateralEffect 399 E) ∧
    (∃ E, (tipping (.off .sensorLost) 300 .positive).LateralEffect 0 E) :=
  ⟨by decide +kernel, rfl, by decide, ⟨_, .quietStays rfl (.inl (by decide))⟩,
    ⟨_, .quietWatches rfl (by decide) (by decide) (by decide)⟩, ⟨_, .quietIntervenes rfl (by decide) (by decide) (by decide)⟩,
    ⟨_, .watchEnds rfl (.inl (by decide +kernel))⟩,
    ⟨_, .watchIntervenes rfl (by unfold State.curvePast; decide +kernel) (by decide)⟩, ⟨_, .interveneSlow rfl (by decide)⟩,
    ⟨_, .interveneReverses rfl (by decide) (.inl (by decide))⟩,
    ⟨_, .interveneStays rfl (by decide) (by unfold State.reverses; decide +kernel)⟩, ⟨_, .holdoffResumes rfl rfl (by decide)⟩,
    ⟨_, .holdoffStays rfl (.inr (by decide))⟩, ⟨_, .offCounts rfl (by decide)⟩⟩

theorem test_hypotheses_RolloverTimersExpire :
    (let s : State := { live with rou := { live.rou with lateralTimer := five, holdTimer := five, rampTimer := five } }
     s.rou.lateralTimer ≠ none ∧ s.rou.holdTimer ≠ none ∧ s.rou.rampTimer ≠ none) ∧
      (live.rou.lateralTimer = none ∧ live.rou.holdTimer = none ∧ live.rou.rampTimer = none) ∧
      ((rolling .intervene).rou.state = .intervene ∧ (rolling .holdoff).rou.state = .holdoff) ∧
      ((∃ w : Fin 8, live.tbu.active.roll.rampStep < (Vector.replicate 8 51)[w]) ∧
        ∀ w : Fin 8, (Vector.replicate 8 50)[w] ≤ live.tbu.active.roll.rampStep) := by decide +kernel

/-- The lines of WATCH, PROBE and OFF that remain. -/
theorem test_hypotheses_LateralSamplesAreTested_probe :
    (∃ E, (tipping .watch 620 .positive).LateralEffect 340 E) ∧ (∃ E, (tipping .watch 620 .positive).LateralEffect 339 E) ∧
    (∃ E, (tipping .probe 299 .positive).LateralEffect 340 E) ∧ (∃ E, (tipping .probe 300 .positive).LateralEffect 400 E) ∧
    (∃ E, (tipping .probe 300 .positive).LateralEffect (-339) E) ∧ (∃ E, (tipping .probe 300 .negative).LateralEffect 340 E) ∧
    (∃ E, (tipping .probe 300 .positive).LateralEffect (-340) E) ∧ (∃ E, (tipping .probe 300 .positive).LateralEffect 399 E) ∧
    (∃ E, ({ tipping (.off .sensorLost) 300 .positive with rou := { (tipping (.off .sensorLost) 300 .positive).rou with goodCount := 4 } } :
      State).LateralEffect 0 E) :=
  ⟨⟨_, .watchProbes rfl (by unfold State.curvePast; decide +kernel) (by decide) rfl
      (by unfold State.probePasses State.innerUnmasked; decide +kernel)⟩,
    ⟨_, .watchStays rfl (by unfold State.curvePast; decide +kernel) (by decide)
      (.inr (by unfold State.probePasses State.innerUnmasked; decide +kernel))⟩,
    ⟨_, .probeEnds rfl (by unfold State.curvePast; decide +kernel)⟩,
    ⟨_, .probeIntervenes rfl (by unfold State.curvePast; decide +kernel) (by decide)⟩,
    ⟨_, .probeReversesLow rfl (by unfold State.curvePast; decide +kernel) (by decide) (by unfold State.reverses; decide +kernel) (by decide)⟩,
    ⟨_, .probeMoves rfl (by unfold State.curvePast; decide +kernel) (by decide) (by unfold State.reverses; decide +kernel) (by decide)
      (by unfold State.innerUnmasked; decide +kernel)⟩,
    ⟨_, .probeMasked rfl (by unfold State.curvePast; decide +kernel) (by decide) (by unfold State.reverses; decide +kernel) (by decide)
      (by unfold State.innerUnmasked; decide +kernel)⟩,
    ⟨_, .probeStays rfl (by unfold State.curvePast; decide +kernel) (by decide) (by unfold State.reverses; decide +kernel)⟩,
    ⟨_, .offEnds rfl (by decide)⟩⟩

/-! ### Tyres and the registry -/

/-- A telegram of an identifier, with its learn trigger or without. -/
def telegram (ident : BitVec 32) (learn : Bool) : Telegram :=
  { ident := ident, pressure := 800, temperature := 20, count := 1, learnTrigger := learn, batteryLow := false, rapidLoss := false }

/-- The learn window of `learning`. -/
def window : LearnWindow := { binding := outer1, tag := 7, timer := five, answered := [] }

/-- Every line of R108 to R111 is met: an invalid and a foreign identifier, one of an evaluated entry heard again and heard anew, one of a
dormant entry, and one that opens the learn rules. -/
theorem test_hypotheses_TelegramsAreTaken :
    (live.RegistryUnique ∧ live.rst.restore = none ∧ live.apu.power ≠ .sleep) ∧ restoring.rst.restore ≠ none ∧
    (∃ E fs, live.TelegramEffect (telegram 0 false) E fs) ∧ (∃ E fs, live.TelegramEffect (telegram 0xFFFFFFFF false) E fs) ∧
    (∃ E fs, live.TelegramEffect (telegram 1 false) E fs) ∧ (∃ E fs, (learning live).TelegramEffect (telegram 1 true) E fs) ∧
    (∃ E fs, (withTyre (withAxle live) outer1 { count := some 1, repeatWindow := five }).TelegramEffect (telegram 5 false) E fs) ∧
    (∃ E fs, (withTyre (withAxle live) outer1 {}).TelegramEffect (telegram 5 false) E fs) ∧
    (∃ E fs, (withTyre live outer1 {}).TelegramEffect (telegram 5 false) E fs) ∧
    (∀ a : Fin 4, (withAxle live).tbu.active.axle[a].present = true → a = 0) ∧
    ∃ a : Fin 4, (withAxle live).tbu.active.axle[a].present = true :=
  ⟨⟨empty_unique live rfl, rfl, by decide⟩, by decide, ⟨_, _, .invalid (.inl rfl)⟩, ⟨_, _, .invalid (.inr rfl)⟩,
    ⟨_, _, .foreign (by decide) (by decide) (empty_unheld live rfl _) (.inl rfl)⟩,
    ⟨_, _, .unmatched _ _ (by decide) (by decide) (empty_unheld (learning live) rfl _) (by decide) rfl
      (.taught window 0 rfl rfl (empty_unheld (learning live) rfl _) (empty_goesTo (learning live) rfl _)
        (by unfold State.hasRoom; decide +kernel) (by decide +kernel))⟩,
    ⟨_, _, .again 0 _ (by decide) (by decide) rfl rfl (by decide +kernel) rfl (by decide)⟩,
    ⟨_, _, .accepted 0 _ _ _ (by decide) (by decide) rfl rfl (by decide +kernel) (.inr rfl) (.untaught (.inl rfl))⟩,
    ⟨_, _, .dormant 0 _ _ _ (by decide) (by decide) rfl rfl (by decide +kernel) (.untaught (.inl rfl))⟩, by decide +kernel,
    by decide +kernel⟩

/-- A learning state whose registry holds identifier 5 on a binding. -/
def learningTyre (b : Binding) : State := learning (withTyre live b {})

/-- A learning state whose window has answered identifier 5 already. -/
def learningAgain (b : Binding) : State :=
  { learningTyre b with twu := { (learningTyre b).twu with learn := some { window with answered := [5] } } }

/-- A registry without an empty entry and without the binding of the window: twenty entries of spare slot 1, by other identifiers. -/
def crowded : State :=
  { learning live with twu := { (learning live).twu with
      entries := Vector.ofFn fun i => some { ident := BitVec.ofNat 32 (i.val + 100), binding := .spare 0 } } }

/-- Every line of R133 and R134 is met. -/
theorem test_hypotheses_TelegramsAreTaken_learn :
    (∃ E fs, live.LearnEffect (telegram 5 true) E fs) ∧ (∃ E fs, (learning live).LearnEffect (telegram 5 false) E fs) ∧
    (∃ E fs, (learningTyre outer1).LearnEffect (telegram 5 true) E fs) ∧
    (∃ E fs, (learningTyre (.spare 3)).LearnEffect (telegram 5 true) E fs) ∧
    (∃ E fs, (learningAgain (.spare 3)).LearnEffect (telegram 5 true) E fs) ∧
    (∃ E fs, ({ learning live with tbu := live.tbu } : State).LearnEffect (telegram 5 true) E fs) ∧
    (∃ E fs, ({ learning live with rst := { live.rst with writePos := 1024 } } : State).LearnEffect (telegram 5 true) E fs) ∧
    (∃ E fs, crowded.LearnEffect (telegram 5 true) E fs) := by
  refine ⟨⟨_, _, .untaught (.inl rfl)⟩, ⟨_, _, .untaught (.inr rfl)⟩, ⟨_, _, .heldThere window 0 _ rfl rfl rfl rfl rfl⟩,
    ⟨_, _, .duplicate window 0 _ rfl rfl rfl rfl (by decide) (by decide)⟩,
    ⟨_, _, .answeredAlready { window with answered := [5] } 0 _ rfl rfl rfl rfl (by decide) (by decide)⟩,
    ⟨_, _, .taughtDormant window 0 rfl rfl (empty_unheld _ rfl _) (empty_goesTo _ rfl _) (by unfold State.hasRoom; decide +kernel)
      (by decide +kernel)⟩,
    ⟨_, _, .noRoom window 0 rfl rfl (empty_unheld _ rfl _) (empty_goesTo _ rfl _) (by unfold State.hasRoom; decide +kernel)⟩,
    ⟨_, _, .noPlace window rfl rfl ?_ ?_⟩⟩
  · intro i b h
    have : b = { ident := BitVec.ofNat 32 (i.val + 100), binding := .spare 0 } := by simpa [crowded, eq_comm] using h
    rw [this]
    have hi : ∀ i : Fin 20, BitVec.ofNat 32 (i.val + 100) ≠ 5 := by decide +kernel
    exact hi i
  · rintro i (⟨b, h, hb⟩ | ⟨_, h, _⟩)
    · have : b = { ident := BitVec.ofNat 32 (i.val + 100), binding := .spare 0 } := by simpa [crowded, eq_comm] using h
      rw [this] at hb
      have hw : Binding.spare 0 ≠ outer1 := by decide
      exact hw hb
    · simp [crowded] at h

theorem test_hypotheses_LearnIsDecided :
    ((withAxle live).Serves 15 ∧ (withAxle live).roomForward 2) ∧
    ((∀ b : Binding, b.code ≠ (rq 0).arg 0) ∧ (rq 0x0100090000).arg 1 * 256 + (rq 0x0100090000).arg 2 = 9) ∧
    (outer1.code = (rq 0x01000A0000).arg 0 ∧ bindingValid (withAxle live).tbu.active.axle outer1 = true ∧
      (rq 0x0100000000).arg 1 * 256 + (rq 0x0100000000).arg 2 = 0 ∧ (rq 0x01000A0000).arg 1 * 256 + (rq 0x01000A0000).arg 2 = 10 ∧
      (rq 0x0102580000).arg 1 * 256 + (rq 0x0102580000).arg 2 = 600) ∧ (learning live).twu.learn ≠ none ∧ (withAxle live).twu.learn = none := by
  refine ⟨⟨serves_of _ (by decide +kernel), by unfold State.roomForward; decide +kernel⟩, ⟨fun b => ?_, by decide +kernel⟩, by decide +kernel,
    by decide +kernel, by decide +kernel⟩
  have := code_range b
  have h : (rq 0).arg 0 = 0 := by decide +kernel
  omega

theorem test_hypotheses_AssignAndRemoveAreDecided :
    ((withAxle live).Serves 15 ∧ (withAxle live).RegistryUnique ∧ (withAxle live).roomForward 2) ∧
    ((∀ b : Binding, b.code ≠ (rq 0).arg 0) ∧ ((rq 0x0100000000).args.setWidth 32 : BitVec 32) = 0 ∧
      ((rq 0x01FFFFFFFF).args.setWidth 32 : BitVec 32) = 0xFFFFFFFF) ∧
    (outer1.code = (rq 0x0100000005).arg 0 ∧ bindingValid (withAxle live).tbu.active.axle outer1 = true ∧
      ((rq 0x0100000005).args.setWidth 32 : BitVec 32) = 5) ∧
    ((withTyre live outer1 {}).twu.entries[(0 : Fin 20)] = some { ident := 5, binding := outer1, reading := {} } ∧
      outer1 ≠ .spare 0 ∧ (withTyre live outer1 {}).RegistryUnique) ∧
    ((withAxle live).unheld 5 ∧ (withAxle live).goesTo outer1 0 ∧ (withAxle live).hasRoom [1]) ∧
    (¬({ live with rst := { live.rst with writePos := 1024 } } : State).hasRoom [1]) ∧ live.unbound outer1 := by
  refine ⟨⟨serves_of _ (by decide +kernel), empty_unique (withAxle live) rfl, by unfold State.roomForward; decide +kernel⟩,
    ⟨fun b => ?_, by decide +kernel, by decide +kernel⟩, by decide +kernel, ⟨rfl, by decide, withTyre_unique live rfl _ _⟩,
    ⟨empty_unheld (withAxle live) rfl _, empty_goesTo (withAxle live) rfl _, by unfold State.hasRoom; decide +kernel⟩,
    by unfold State.hasRoom; decide +kernel, empty_unbound live rfl _⟩
  have := code_range b
  have h : (rq 0).arg 0 = 0 := by decide +kernel
  omega

/-- The right outer tyre of axle 1. -/
def outer1R : Binding := .tyre 0 .right .outer

theorem test_hypotheses_ExchangeIsDecided :
    ((withAxle live).Serves 15 ∧ (withAxle live).RegistryUnique ∧ (withAxle live).roomForward 2) ∧
    ((∀ b, b.code = (rq 0x0500000000).arg 0 → bindingValid (withAxle live).tbu.active.axle b = false) ∧
      outer1R.code = (rq 0x0300000000).arg 0 ∧ bindingValid (withAxle live).tbu.active.axle outer1R = true) ∧
    ((withAxle live).twu.half = none ∧ (withAxle live).twu.learn = none ∧ (learning live).twu.half = none ∧ (learning live).twu.learn ≠ none) ∧
    ((halved live).twu.half = some { binding := outer1, tag := 7, timer := five } ∧ outer1R ≠ outer1) ∧
    ((halved live).Holds outer1 none ∧ (halved (withTyre live outer1 {})).Holds outer1 (some (0, { ident := 5, binding := outer1 }))) ∧
    ((halved live).hasRoom [1, 1] ∧ ¬({ live with rst := { live.rst with writePos := 1023 } } : State).hasRoom [1, 1]) := by
  refine ⟨⟨serves_of _ (by decide +kernel), empty_unique (withAxle live) rfl, by unfold State.roomForward; decide +kernel⟩,
    ⟨fun b h => ?_, by decide +kernel, by decide +kernel⟩, by decide +kernel, by decide +kernel,
    ⟨empty_unbound (halved live) rfl _, rfl, rfl⟩, by unfold State.hasRoom; decide +kernel⟩
  rw [show (rq 0x0500000000).arg 0 = 5 by decide +kernel] at h
  cases b with
  | tyre a side place =>
    have ha : a = 1 := by
      have := code_range (.tyre a side place)
      cases side <;> cases place <;> simp [Binding.code] at h <;> omega
    subst ha
    cases side <;> cases place <;> decide +kernel
  | spare n => simp [Binding.code] at h; omega

/-! ### Tables -/

/-- A table set that passes every check, and for each check one that fails it first. -/
theorem test_hypotheses_ValidationChecksTheShadow :
    validate Tables.factory = none ∧ (validate (withAxle live).tbu.active).map (·.check) = some 1 ∧
      validate { (withLoads live).tbu.active with axle := (withLoads live).tbu.active.axle.set 0 { present := true, rMin := 301, fallback := 300 } } =
        some { check := 2, table := .axle, entry := 1 } ∧
      (validate { Tables.factory with channel := { Tables.factory.channel with
        entries := Tables.factory.channel.entries.set 0 { present := true } } }).map (·.check) = some 3 ∧
      (validate { Tables.factory with roll := { Tables.factory.roll with exit := 700 } }).map (·.check) = some 4 ∧
      (validate { Tables.factory with tyre := { Tables.factory.tyre with warn := 750 } }).map (·.check) = some 5 ∧
      (validate { Tables.factory with supply := { Tables.factory.supply with recovery := 250 } }).map (·.check) = some 6 ∧
      validate { Tables.factory with roll := { Tables.factory.roll with enabled := true } } = some { check := 7, table := .channel, entry := 0 } := by
  decide +kernel

theorem test_hypotheses_TablesAreWrittenReadAndDiscarded :
    ((∃ fs, entryLayout .supply 0 = some fs ∧ ([100, 150, 300, 1000] : List Nat).length = fs.length ∧ inRanges fs [100, 150, 300, 1000] = true) ∧
      (entryLayout .alert 23).isSome = true ∧ (TableId.alert, 23) ≠ (TableId.supply, 0)) ∧
    (live.Serves 15 ∧ live.roomForward 2) ∧
    ((∀ id : TableId, id.code = (0 : BitVec 3).toNat → entryLayout id 0 = none) ∧ ∀ id : TableId, id.code = 6 → entryLayout id 2 = none) ∧
    (∃ fs, TableId.supply.code = (6 : BitVec 3).toNat ∧ entryLayout .supply (0 : BitVec 5).toNat = some fs ∧
      inRanges fs (unpackArea fs 0) = false ∧ inRanges fs (unpackArea fs (packArea fs [500, 800, 300, 1000])) = true) ∧
    (2 ≤ (rq 0x0200000000).arg 0 ∧ (rq 0x0106000000).arg 0 ≤ 1 ∧ (rq 0x0106020000).arg 1 = 6 ∧ (rq 0x0106020000).arg 2 = 2 ∧
      TableId.supply.code = (rq 0x0106000000).arg 1 ∧ (entryLayout .supply ((rq 0x0106000000).arg 2)).isSome = true) := by
  refine ⟨⟨⟨_, rfl, by decide +kernel, by decide +kernel⟩, by decide +kernel, by decide⟩,
    ⟨serves_of _ (by decide +kernel), by unfold State.roomForward; decide +kernel⟩, ⟨?_, ?_⟩,
    ⟨_, by decide +kernel, rfl, by decide +kernel, by decide +kernel⟩, by decide +kernel⟩ <;>
  · intro id
    cases id <;> decide +kernel

theorem test_hypotheses_InsertIsDecided :
    (insertable.Serves 15 ∧ insertable.roomForward 3 ∧ insertable.tbu.heldInsert = none ∧ insertable.lap.brakeActive = false ∧
      validate insertable.tbu.shadow = none ∧ insertable.roomToInsert ∧ insertable.inserted.Calm) ∧
    ({ live with tbu := { live.tbu with heldInsert := some 9 } } : State).tbu.heldInsert ≠ none ∧
    (live.lap.brakeActive = true ∧ (rq 0).flags.toNat % 2 = 0 ∧ (rqHold 0).flags.toNat % 2 = 1) ∧
    (validate (withAxle live).tbu.active = some { check := 1, table := .load, entry := 0 }) ∧
    ¬({ insertable with rst := { insertable.rst with writePos := 1013 } } : State).roomToInsert := by
  refine ⟨⟨serves_of _ (by decide +kernel), by unfold State.roomForward; decide +kernel, by decide +kernel, by decide +kernel,
    by decide +kernel, ?_, by unfold State.Calm; decide +kernel⟩, by decide +kernel, by decide +kernel, by decide +kernel, ?_⟩ <;>
  · unfold State.roomToInsert State.hasRoom
    decide +kernel

/-- The brakes were active and nothing keeps them so; an insert is held. -/
def releasing (s : State) : State :=
  { s with lap := { s.lap with brakeActive := true }, tbu := { s.tbu with heldInsert := some 9 }, lru := { s.lru with slotInsert := some 9 } }

theorem test_hypotheses_BrakeReleasePerformsTheHeldInsert :
    ((Ev.start (releasing insertable)).lap.brakeActive = true ∧ (Ev.start (releasing insertable)).reform.brakeActivity = false ∧
        (Ev.start (releasing insertable)).tbu.heldInsert = some 9 ∧ validate (releasing insertable).tbu.shadow = none) ∧
      (¬(insertable.lap.brakeActive = true ∧ (Ev.start insertable).reform.brakeActivity = false)) ∧ insertable.tbu.heldInsert = none ∧
      ((releasing insertable).roomToInsert ∧
        ¬({ releasing insertable with rst := { insertable.rst with writePos := 1013 } } : State).roomToInsert) ∧
      (let e := Ev.start (releasing { ready with tbu := { ready.tbu with shadow := (withAxle ready).tbu.active, differs := true } })
       e.reform.brakeActivity = false ∧ (validate e.tbu.shadow).isSome = true) ∧
      (let e := Ev.start (releasing insertable)
       ((.overload, false) ∈ e.reform.setActivity.conditions ∧ (.overload, false) ∈ e.settle.conditions) ∧
         (.channelLost, false) ∈ e.reform.setActivity.conditions ∧ (.channelLost, false) ∈ e.settle.conditions ∧
         e.reform.setActivity.rou.state ≠ .intervene) ∧
      isEventAlert 2 = true ∧ 2 ≠ AlertKind.tableInsertFailed.index := by
  unfold State.roomToInsert State.hasRoom
  decide +kernel

/-! ### Links and requests -/

/-- At position 2, with the rear queue full or not, RELAY_OVERFLOW set or not. -/
def placed2 (n : Nat) (set : Bool) : State :=
  { live with
    lru := { live.lru with position := 2, rearTx := some ⟨0, 0⟩, rearQueue := List.replicate n ⟨0, 0⟩ },
    apu := { live.apu with alerts := live.apu.alerts.set 21 { flag := set } } }

/-- At position 2 with the rear queue full and RELAY_OVERFLOW clear, enabled and URGENT. -/
def overflowing : State :=
  { placed2 8 false with tbu := { live.tbu with active := { live.tbu.active with
      alert := live.tbu.active.alert.set 21 { enable := true, urgent := true } } } }

/-- A broadcast ACK_ALERT of RELAY_OVERFLOW, which its own drop has just set: the ALERT frame of the drop goes between the answer and the ALERT
frame of the acknowledgement. -/
theorem test_ackAlert_dropped :
    seen (exec (.ackAlert (rq 0x1600000000)) overflowing) sent =
      some [(1040, 0x0701000000000000), (1424, 0x1601000000000000), (1424, 0x1600000000000000)] := by decide +kernel

/-- The targets 0, 1, 2, 3, 4, 5, 14 and 15 against the position 2, and 15 against the position 0. -/
theorem test_hypotheses_RequestsAreAddressed :
    (live.Serves 15 ∧ live.roomForward 1 ∧ (0 : Byte) = 0 ∧ 23 < (24 : Byte).toNat) ∧ ((placed2 0 false).lru.position ≤ 4) ∧
    (standby.apu.power ≠ .run ∧ (placed2 0 false).apu.power = .run) ∧
    ((0 = 0 ∨ (5 ≤ 0 ∧ 0 ≠ 15)) ∧ (5 ≤ 5 ∧ 5 ≠ 15) ∧ (5 ≤ 14 ∧ 14 ≠ 15) ∧ (1 ≤ 4 ∧ 1 < 2) ∧ 4 ≤ 4) ∧
    (1 ≤ 2 ∧ 2 < 3 ∧ 3 ≤ 4 ∧ (placed2 7 false).lru.rearQueue.length < 8) ∧
    (8 ≤ (placed2 8 true).lru.rearQueue.length ∧ ¬(placed2 8 true).overflowAlerts) ∧ ¬(placed2 8 false).overflowAlerts ∧
    (overflowing.overflowAlerts ∧ overflowing.roomForward 1 ∧ 8 ≤ overflowing.lru.rearQueue.length ∧
      overflowing.lru.forwardOverflows < 65535 ∧
      seen (exec (rearwardCommand (aimRearward (.request 22 (rq 0x1600000000)) 2))
          ({ overflowing with lru := { overflowing.lru with rearOverflows := 1 } } : State).overflowed)
        (fun u => u.lru.forwardOverflows == overflowing.lru.forwardOverflows && decide (u.lru.forwardQueue.length + 1 ≤ forwardCapacity)) =
          some true) ∧
    (restoring.lru.position = 0 ∧ restoring.rst.restore ≠ none ∧ restoring.apu.power = .run ∧ restoring.roomForward 1) := by
  refine ⟨⟨serves_of _ (by decide +kernel), by unfold State.roomForward; decide +kernel, by decide, by decide⟩, ?_⟩
  unfold State.overflowAlerts State.roomForward
  decide +kernel

theorem test_hypotheses_FramesAreDiscardedQueuedAndTaken :
    (live.apu.power = .run ∧ standby.apu.power ≠ .run ∧ live.roomForward 1 ∧
      ¬({ live with lru := { live.lru with forwardQueue := List.replicate 24 { frame := ⟨0, 0⟩ } } } : State).roomForward 1) ∧
    ((0x408 : BitVec 11).toNat / 128 = 8 ∧ (0x080 : BitVec 11).toNat / 128 ∈ [1, 2, 3, 8, 9, 10, 11] ∧
      (0x180 : BitVec 11).toNat / 128 = 3 ∧ (0x200 : BitVec 11).toNat / 128 ∉ [1, 2, 3, 8, 9, 10, 11] ∧ (0x081 : BitVec 11).toNat % 8 ≠ 0) ∧
    (live.lru.towTx = none ∧ (towBusy live false).lru.towTx = some { frame := ⟨1024, 1⟩ } ∧
      (towBusy live false).lru.forwardQueue = { frame := ⟨1024, 2⟩ } :: []) ∧ live.lru.forwardQueue = [] ∧
    (live.lru.rearTx = none ∧ (rearBusy live).lru.rearTx ≠ none) := by
  unfold State.roomForward
  decide +kernel

theorem test_hypotheses_AnswersAreSegmented :
    ((11 : Nat) - 5 + 5) / 6 = 1 ∧ (0 : Nat) < (6 - 5 + 5) / 6 ∧
      (Ev.start { live with lru := { live.lru with forwardQueue := List.replicate 22 { frame := ⟨0, 0⟩ } } }).lru.forwardQueue.length + 2 ≤ 24 ∧
      24 < (Ev.start { live with lru := { live.lru with forwardQueue := List.replicate 22 { frame := ⟨0, 0⟩ } } }).lru.forwardQueue.length + 3 := by
  decide +kernel

theorem test_hypotheses_CancelIsDecided :
    (parked.Serves 15 ∧ (heldRelease parked).Serves 15 ∧ (heldRelease parked).SlotsMatch ∧ parked.roomForward 2) ∧
      ((rq 0x0100000000).arg 0 ∉ [3, 6, 7, 10, 15] ∧ (rq 0x0F00000000).arg 0 = 15) ∧
      (∃ E, (heldRelease parked).Cancels 3 (some 7) E) ∧ (∃ E, parked.Cancels 3 none E) ∧
      (∃ E, (releasing parked).Cancels 6 (some 9) E) ∧ (∃ E, (learning live).Cancels 7 (some 7) E) ∧
      (∃ E, (halved live).Cancels 10 (some 7) E) ∧ (∃ E, (heldService ready).Cancels 15 (some 7) E) ∧
      (∃ E, (runningService none 0).Cancels 15 (some 7) E) ∧ (heldRelease parked).releaseOver.Calm :=
  ⟨⟨serves_of _ (by decide +kernel), serves_of _ (by decide +kernel), by unfold State.SlotsMatch; decide +kernel,
      by unfold State.roomForward; decide +kernel⟩, by decide +kernel, ⟨_, rfl, rfl⟩, ⟨_, rfl, rfl⟩, ⟨_, rfl, rfl⟩, ⟨_, rfl, rfl⟩,
    ⟨_, rfl, rfl⟩, ⟨_, rfl, rfl⟩, ⟨_, rfl, rfl⟩, ⟨rfl, rfl⟩⟩

theorem test_hypotheses_ReadsAnswerTheState :
    (live.Serves 15 ∧ live.roomForward 5 ∧ live.SameButTow (towBusy live false) ∧ (towBusy live false).roomForward 5) ∧
    ((rq 0).arg 0 = 0 ∧ 6 < (rq 0x0700000000).arg 0 ∧ (rq 0x0600000000).arg 0 = (5 : Fin 6).val + 1 ∧ 20 < (rq 0x1500000000).arg 0) ∧
    ((trained 1 .none).wcu.trainA.phase ≠ .off ∧ (trained 1 .none).wcu.trainA.targets[(0 : Fin 6)] = false ∧
      ({ gap 1 with targets := Vector.replicate 6 true } : PulseTrain).targets[(0 : Fin 6)] = true) ∧
    ((withChannel1 live).tbu.active.channel.entries[(0 : Fin 6)].present = true ∧
      live.tbu.active.channel.entries[(0 : Fin 6)].present = false) ∧
    (outer1.code = (rq 0x0100000000).arg 0 ∧ live.unbound outer1 ∧ (withTyre live outer1 {}).RegistryUnique ∧
      (withTyre live outer1 {}).twu.entries[(0 : Fin 20)] = some { ident := 5, binding := outer1, reading := {} }) ∧
    ((rq 0x1400000000).arg 0 = (19 : Fin 20).val + 1 ∧ live.twu.entries[(19 : Fin 20)] = none) ∧
    (((alerted live 22 false).isPending 22 = true ∧ (alerted live 22 false).apu.alerts[(22 : Fin 23)].ack = false) ∧
      (∀ j : Fin 23, j < 22 → ¬((alerted live 22 false).isPending j = true ∧ (alerted live 22 false).apu.alerts[j].ack = false))) ∧
    ∀ k : Fin 23, ¬((alerted live 0 true).isPending k = true ∧ (alerted live 0 true).apu.alerts[k].ack = false) :=
  ⟨⟨serves_of _ (by decide +kernel), by unfold State.roomForward; decide +kernel, rfl, by unfold State.roomForward; decide +kernel⟩,
    by decide +kernel, by decide +kernel, by decide +kernel,
    ⟨by decide +kernel, empty_unbound live rfl _, withTyre_unique live rfl _ _, rfl⟩, by decide +kernel, by decide +kernel,
    by decide +kernel⟩

/-! ### Alerts, RESET and the store -/

theorem test_hypotheses_AlertAndResetRequestsAreDecided :
    (parked.Serves 15 ∧ parked.roomForward 2) ∧
    ((rq 0).arg 0 = 0 ∧ 23 < (rq 0x1800000000).arg 0 ∧ (rq 0x0100000000).arg 0 = (0 : Fin 23).val + 1 ∧
      (rq 0x1700000000).arg 0 = (22 : Fin 23).val + 1) ∧
    (live.apu.alerts[(0 : Fin 23)].flag = false ∧ (alerted live 0 false).apu.alerts[(0 : Fin 23)].flag = true ∧ isEventAlert 0 = false ∧
      (alerted live 2 false).apu.alerts[(2 : Fin 23)].flag = true ∧ isEventAlert 2 = true) ∧
    (({ parked with apu := { parked.apu with resetPending := true } } : State).apu.resetPending = true ∧ parked.apu.resetPending = false ∧
      20 < moving.wcu.refSpeed ∧ ready.asv.supply ≠ .parked ∧ ready.asv.supply ≠ .undetermined ∧
      (parked.wcu.refSpeed ≤ 20 ∧ parked.asv.supply = .parked) ∧ live.asv.supply = .undetermined) ∧
    24 ≤ ({ parked with lru := { parked.lru with forwardQueue := List.replicate 24 { frame := ⟨0, 0⟩ } } } : State).lru.forwardQueue.length :=
  ⟨⟨serves_of _ (by decide +kernel), by unfold State.roomForward; decide +kernel⟩, by decide +kernel, by decide +kernel, by decide +kernel,
    by decide +kernel⟩

/-- The record of `stored` is found from slot 0; from slot 1, and of another kind, nothing is. -/
theorem test_hypotheses_RecordsAreRead :
    (stored.Serves 15 ∧ stored.roomForward 3) ∧
    ((∀ k : RecordKind, k.code ≠ (rq 0).arg 0) ∧ RecordKind.regEntry.code = (rq 0x0300000000).arg 0) ∧
    (erasing.rst.erase ≠ none ∧ stored.rst.erase = none ∧ stored.rst.writePos ≤ 1024) ∧
    (Scans stored.rst.memory 1 (validOf stored.rst.memory .regEntry) 0 0 ∧ recordAt stored.rst.memory 1 0 = some 1 ∧
      validOf stored.rst.memory .regEntry 0) ∧
    (Scans stored.rst.memory 1 (validOf stored.rst.memory .table) 0 1 ∧ 1 ≤ 1) ∧
    (stored.rst.cursor.kind = none ∧ stored.rst.cursor.passed = false) ∧
    (let s : State := { stored with rst := { stored.rst with cursor := { slot := 0, kind := some .regEntry, passed := true } } }
     s.rst.cursor.kind = some .regEntry ∧ s.rst.cursor.passed = true ∧ recordAt s.rst.memory 1 s.rst.cursor.slot = some 1) ∧
    recordAt stored.rst.memory 1 1 = none := by
  refine ⟨⟨serves_of _ (by decide +kernel), by unfold State.roomForward; decide +kernel⟩, ⟨fun k => ?_, by decide +kernel⟩, by decide +kernel,
    ⟨.here 0, by decide +kernel, by unfold validOf; decide +kernel⟩,
    ⟨.record 0 1 1 (by decide) (by decide +kernel) (by unfold validOf; decide +kernel) (.here 1), le_refl 1⟩, by decide +kernel,
    by decide +kernel, by decide +kernel⟩
  cases k <;> decide +kernel

theorem test_hypotheses_StoreIsErased :
    (stored.Serves 15 ∧ stored.roomForward 1) ∧ (ready.asv.supply ≠ .parked ∧ stored.asv.supply = .parked) ∧
      (erasing.asv.supply = .parked ∧ erasing.rst.erase ≠ none) ∧ erasing.rst.erase = some { tag := 7, phase := .erasing } ∧
      ∀ tag, stored.rst.erase ≠ some { tag := tag, phase := .erasing } :=
  ⟨⟨serves_of _ (by decide +kernel), by unfold State.roomForward; decide +kernel⟩, by decide +kernel, by decide +kernel, rfl,
    fun _ h => absurd h (by simp [stored, oneRecord, State.reset])⟩

/-- A write job of a record at slot 0 at a step. -/
def job (r : Record) (x : WriteStage) : WriteJob := { record := r, start := 0, stage := x }

/-- Each step of a write writes a slot; the ends of a write with no erase, with one that waits, and in a rebase. -/
theorem test_hypotheses_SlotsAreWritten :
    (live.rst.writing = none ∧ (writing .header).rst.writing = some (job (resetRecord 5 { powerOn := true }) .header)) ∧
    (∀ r, ∃ slot bytes, (job r .header).Writes [] slot bytes ∧ slot < 1024) ∧
    (∀ r, ∃ slot bytes, (job r (.data 1)).Writes [] slot bytes) ∧ (∀ r, ∃ slot bytes, (job r .valid).Writes [] slot bytes) ∧
    (∀ r, ∃ slot bytes, (job r (.supersede 1023)).Writes [] slot bytes ∧ slot < 1024) ∧
    (∀ r, ∃ slot bytes, (job r (.supersede 1024)).Writes [] slot bytes ∧ 1024 ≤ slot) ∧
    ((job (resetRecord 5 {}) .header).Follows [] live.rst.Rebases (some .valid) ∧
      (job (tableRecord {} .axle) .header).Follows [] live.rst.Rebases (some (.data 1)) ∧
      (job (tableRecord {} .axle) (.data 2)).Follows [] live.rst.Rebases (some .valid) ∧
      (job (resetRecord 5 {}) .valid).Follows [] live.rst.Rebases none ∧
      ({ live with rst := { live.rst with erase := some { tag := 7, phase := .rebasing 6 } } } : State).rst.Rebases ∧ ¬live.rst.Rebases) ∧
    (∃ E fs, live.WriteEnds E fs) ∧
    (∃ E fs, ({ live with rst := { live.rst with erase := some { tag := 7, phase := .waiting } } } : State).WriteEnds E fs) ∧
    (∃ E fs, ({ live with rst := { live.rst with erase := some { tag := 7, phase := .rebasing 6 } } } : State).WriteEnds E fs) ∧
    (∃ E fs, ({ live with rst := { live.rst with erase := some { tag := 7, phase := .rebasing 27 } } } : State).WriteEnds E fs) ∧
    Memory.wf oneRecord.rst.memory ∧ ((0 : Nat) < 16 * 1 ∧ 16 * 1 + 16 ≤ 32) := by
  refine ⟨⟨rfl, rfl⟩, fun r => ⟨0, _, ⟨rfl, rfl⟩, by decide⟩, fun r => ⟨_, _, rfl, rfl⟩, fun r => ⟨_, _, rfl, rfl⟩,
    fun r => ⟨1023, _, ⟨rfl, rfl⟩, by decide⟩, fun r => ⟨1024, _, ⟨rfl, rfl⟩, by decide⟩,
    ⟨rfl, rfl, rfl,
      ⟨fun n _ h => absurd h (by decide +kernel), fun _ => rfl⟩, ⟨7, 6, rfl⟩,
      fun ⟨_, _, h⟩ => absurd h (by simp [live, State.reset])⟩,
    ⟨_, _, .plain (.inl rfl)⟩, ⟨_, _, .erase 7 rfl⟩,
    ⟨_, _, .rebase 7 6 6 _ rfl (le_refl 6) (.inl ⟨.alert, rfl, rfl⟩) (fun k _ h1 h2 => absurd h2 (by omega))⟩, ⟨_, _, .rebased 7 27 rfl ?_⟩, by decide +kernel, by decide⟩
  rintro k x hk (⟨id, h, _⟩ | ⟨e, b, h, _⟩)
  · cases id <;> simp [TableId.code] at h <;> omega
  · omega

end Sys2Proof.Tests
end

section
/-! O17: the source of D_eff and D_eff in every supply state (R12, R13). One equation per line of the two tables, the frame of forming D_eff,
and the suspension of output while D_eff is undefined. -/

namespace Sys2Proof.Machine

/-! ## The source of D_eff (R12) -/

theorem demandSource_of_linked {a : Asv} (h : a.link = .linked) : demandSource a = a.lastDemand := by
  simp only [demandSource, h]

theorem demandSource_of_unlinked {a : Asv} (h : a.link = .unlinked) : demandSource a = a.lastAir.map (·.control) := by
  simp only [demandSource, h]

/-! ## D_eff by the supply state (R13) -/

theorem effectiveDemand_parked (source : Option Nat) (emergencyDemand : Nat) :
    effectiveDemand .parked source emergencyDemand = some 0 := rfl

/-- In EMERGENCY the emergency demand is the floor of a defined source. -/
theorem effectiveDemand_emergency_some (d emergencyDemand : Nat) :
    effectiveDemand .emergency (some d) emergencyDemand = some (if d < emergencyDemand then emergencyDemand else d) :=
  congrArg some (max_def_lt d emergencyDemand)

/-- In EMERGENCY an undefined source leaves the emergency demand alone. -/
theorem effectiveDemand_emergency_none (emergencyDemand : Nat) :
    effectiveDemand .emergency none emergencyDemand = some emergencyDemand :=
  congrArg some (Nat.zero_max emergencyDemand)

theorem effectiveDemand_of_ne {supply : SupplyState} (hparked : supply ≠ .parked) (hemergency : supply ≠ .emergency)
    (source : Option Nat) (emergencyDemand : Nat) : effectiveDemand supply source emergencyDemand = source := by
  cases supply with
  | parked => exact absurd rfl hparked
  | emergency => exact absurd rfl hemergency
  | undetermined | charging | ready => rfl

/-! ## Forming D_eff in an event -/

theorem Ev.formDemand_dEff (e : Ev) :
    e.formDemand.asv.dEff = effectiveDemand e.asv.supply (demandSource e.asv) e.tbu.active.supply.emergencyDemand := rfl

/-- The frame of forming D_eff: with D_eff put back, the event is as it was. -/
theorem Ev.formDemand_restore_dEff (e : Ev) :
    { e.formDemand with asv := { e.formDemand.asv with dEff := e.asv.dEff } } = e := rfl

theorem State.outputSuspended_of_dEff_none {s : State} (h : s.asv.dEff = none) : s.outputSuspended = true := by
  simp [State.outputSuspended, h]

/-- Settles O17: the source by the link state, D_eff by the supply state, and the frame. -/
theorem effectiveDemandIsFormed : Obligations.EffectiveDemandIsFormed := by
  unfold Obligations.EffectiveDemandIsFormed
  intro e
  refine ⟨demandSource_of_linked, fun hlink x hair => ?unlinkedSample, fun hlink hair => ?unlinkedNone, fun hsupply => ?parked,
    fun hsupply d hsource => ?emergencySome, fun hsupply hsource => ?emergencyNone, fun hparked hemergency => ?otherwise,
    e.formDemand_restore_dEff, State.outputSuspended_of_dEff_none⟩
  case unlinkedSample => rw [demandSource_of_unlinked hlink, hair, Option.map_some]
  case unlinkedNone => rw [demandSource_of_unlinked hlink, hair, Option.map_none]
  case parked => rw [e.formDemand_dEff, hsupply, effectiveDemand_parked]
  case emergencySome => rw [e.formDemand_dEff, hsupply, hsource, effectiveDemand_emergency_some]
  case emergencyNone => rw [e.formDemand_dEff, hsupply, hsource, effectiveDemand_emergency_none]
  case otherwise => rw [e.formDemand_dEff, effectiveDemand_of_ne hparked hemergency]

end Sys2Proof.Machine
end

section
/-! O19: the load filter (R27). One equation per line of the rule's table, what a good sample makes of L_f, and the settling of a steady raw load:
the distance from L_f to L_raw follows `gapAfter`, whatever the direction, and `gapAfter` reaches 0. -/

namespace Sys2Proof.Machine

/-! ## One step of the filter (R27) -/

theorem filterLoad_of_near {l raw : Nat} (h : ((raw : Int) - l).natAbs < 4) : filterLoad l raw = raw := if_pos h

theorem filterLoad_of_far {l raw : Nat} (h : ¬((raw : Int) - l).natAbs < 4) :
    filterLoad l raw = ((l : Int) + ((raw : Int) - l).tdiv 4).toNat := if_neg h

theorem filterLoad_rising {l d : Nat} (h : 4 ≤ d) : filterLoad l (l + d) = l + d / 4 := by
  have hd : ((l + d : Nat) : Int) - l = d := by omega
  have hq : (d : Int).tdiv 4 = ((d / 4 : Nat) : Int) := Int.ofNat_tdiv d 4
  rw [filterLoad_of_far (by omega), hd, hq]
  omega

/-- Rounding toward zero makes the falling step as long as the rising one. -/
theorem filterLoad_falling {l d : Nat} (h : 4 ≤ d) : filterLoad (l + d) l + d / 4 = l + d := by
  have hd : (l : Int) - (l + d : Nat) = -d := by omega
  have hq : (-(d : Int)).tdiv 4 = -((d / 4 : Nat) : Int) := by rw [Int.neg_tdiv]; exact congrArg Neg.neg (Int.ofNat_tdiv d 4)
  rw [filterLoad_of_far (by omega), hd, hq]
  omega

/-! ## L_f after a good sample (R27) -/

theorem LoadRecord.unheldLoad_of_clear {r : LoadRecord} {l : Nat} (hl : r.lF = some l) (hmark : r.wholeMark = false) (raw : Nat) :
    r.unheldLoad raw = filterLoad l raw := by
  simp [LoadRecord.unheldLoad, hl, hmark]

@[simp] theorem LoadRecord.sample_unheld_lF (r : LoadRecord) (bag raw : Nat) (stale : Timer) :
    (r.sample bag raw false stale).lF = some (r.unheldLoad raw) := rfl

@[simp] theorem LoadRecord.sample_held_lF (r : LoadRecord) (bag raw : Nat) (stale : Timer) :
    (r.sample bag raw true stale).lF = r.lF := rfl

/-! ## Settling: the distance to a steady raw load -/

/-- The distance |L_raw − L_f|. -/
def loadGap (raw l : Nat) : Nat := ((raw : Int) - l).natAbs

/-- The distance after a step of the filter, from the distance before it. -/
def gapAfter (d : Nat) : Nat := if d < 4 then 0 else d - d / 4

theorem loadGap_eq_zero {raw l : Nat} : loadGap raw l = 0 ↔ l = raw := by
  unfold loadGap; omega

theorem loadGap_filterLoad (raw l : Nat) : loadGap raw (filterLoad l raw) = gapAfter (loadGap raw l) := by
  unfold loadGap gapAfter
  split
  next hnear => rw [filterLoad_of_near hnear, sub_self, Int.natAbs_zero]
  next hfar =>
    rcases Nat.le_total l raw with hle | hle
    · obtain ⟨d, rfl⟩ := Nat.exists_eq_add_of_le hle
      rw [filterLoad_rising (by omega)]
      omega
    · obtain ⟨d, rfl⟩ := Nat.exists_eq_add_of_le hle
      have hstep := filterLoad_falling (l := raw) (d := d) (by omega)
      omega

theorem loadGap_iterate (raw n l : Nat) : loadGap raw ((fun x => filterLoad x raw)^[n] l) = gapAfter^[n] (loadGap raw l) :=
  Function.Semiconj.iterate_right (loadGap_filterLoad raw) n l

/-- Samples with a steady raw load reach it as soon as the distance has run down to 0. -/
theorem filterLoad_iterate_eq_iff (raw n l : Nat) :
    (fun x => filterLoad x raw)^[n] l = raw ↔ gapAfter^[n] (loadGap raw l) = 0 := by
  rw [← loadGap_iterate, loadGap_eq_zero]

theorem gapAfter_monotone : Monotone gapAfter := by
  intro c d h
  unfold gapAfter
  split <;> split <;> omega

/-- Each step takes at least one load unit off the distance. -/
theorem gapAfter_le_pred (d : Nat) : gapAfter d ≤ d - 1 := by
  unfold gapAfter
  split <;> omega

theorem gapAfter_iterate_le (n d : Nat) : gapAfter^[n] d ≤ d - n := by
  induction n with
  | zero => exact le_refl d
  | succ n ih =>
    rw [Function.iterate_succ_apply']
    have hstep := gapAfter_le_pred (gapAfter^[n] d)
    omega

/-- A steady raw load is reached, in no more samples than the distance has load units. -/
theorem filterLoad_iterate_loadGap (raw l : Nat) : (fun x => filterLoad x raw)^[loadGap raw l] l = raw := by
  have hle := gapAfter_iterate_le (loadGap raw l) (loadGap raw l)
  rw [filterLoad_iterate_eq_iff]
  omega

theorem gapAfter_iterate_3000 : gapAfter^[27] 3000 = 0 := by decide

/-- 27 samples settle every distance of up to 3,000 load units: none lasts longer than the largest. -/
theorem filterLoad_iterate_of_gap_le {raw l : Nat} (h : loadGap raw l ≤ 3000) : (fun x => filterLoad x raw)^[27] l = raw := by
  have hle : gapAfter^[27] (loadGap raw l) ≤ gapAfter^[27] 3000 := gapAfter_monotone.iterate 27 h
  rw [gapAfter_iterate_3000] at hle
  exact (filterLoad_iterate_eq_iff raw 27 l).mpr (Nat.le_zero.mp hle)

/-- Settles O19: the unheld and the held sample, the step in both directions, and the settling of a steady raw load. -/
theorem loadFilterReachesTheRawLoad : Obligations.LoadFilterReachesTheRawLoad := by
  unfold Obligations.LoadFilterReachesTheRawLoad
  refine ⟨fun r l bag raw stale hl hmark => ?unheld, fun r => r.sample_held_lF,
    fun l d hd => ⟨filterLoad_rising hd, filterLoad_falling hd, by omega⟩, fun l raw => filterLoad_of_near,
    fun l raw => ⟨loadGap raw l, filterLoad_iterate_loadGap raw l⟩,
    fun l raw hgap => ⟨27, by decide, filterLoad_iterate_of_gap_le hgap⟩⟩
  case unheld =>
    rw [r.sample_unheld_lF, LoadRecord.unheldLoad_of_clear hl hmark]
    split
    next hnear => rw [filterLoad_of_near hnear]
    next hfar => rw [filterLoad_of_far hfar]

end Sys2Proof.Machine
end

section
/-! O20: the threshold a_tab (R80). A segment of a table of breakpoints stays between the values it joins, and is the first whose upper
breakpoint lies above the argument; the lines of `curve` over breakpoints x and v then give those of the ROLL table. -/

namespace Sys2Proof.Machine

/-! ## One segment (5.4) -/

theorem interpolate_left (x0 v0 x1 v1 : Int) : interpolate x0 v0 x1 v1 x0 = v0 := by
  simp [interpolate]

/-- The interpolated value leaves no interval that holds both end values, whichever way the segment runs. -/
theorem interpolate_mem_Icc {x0 v0 x1 v1 x lo hi : Int} (hx0 : x0 ≤ x) (hx1 : x < x1) (h0 : v0 ∈ Set.Icc lo hi)
    (h1 : v1 ∈ Set.Icc lo hi) : interpolate x0 v0 x1 v1 x ∈ Set.Icc lo hi := by
  obtain ⟨hlo0, hhi0⟩ := h0
  obtain ⟨hlo1, hhi1⟩ := h1
  have hlo : lo - v0 ≤ (x - x0) * (v1 - v0) / (x1 - x0) := by
    rw [Int.le_ediv_iff_mul_le (by omega)]
    nlinarith only [hx0, hx1, hlo0, hlo1]
  have hhi : (x - x0) * (v1 - v0) / (x1 - x0) ≤ hi - v0 := by
    apply Int.ediv_le_of_le_mul (by omega)
    nlinarith only [hx0, hx1, hhi0, hhi1]
  rw [interpolate, Set.mem_Icc]
  omega

/-- Between natural values the interpolated value is no less than 0. -/
theorem interpolate_toNat {x0 v0 x1 v1 x : Nat} (hx0 : x0 ≤ x) (hx1 : x < x1) :
    ((interpolate x0 v0 x1 v1 x).toNat : Int) = interpolate x0 v0 x1 v1 x := by
  have hmem : interpolate x0 v0 x1 v1 x ∈ Set.Icc (0 : Int) (max v0 v1 : Nat) :=
    interpolate_mem_Icc (by omega) (by omega) ⟨by omega, by omega⟩ ⟨by omega, by omega⟩
  exact Int.toNat_of_nonneg hmem.1

/-! ## The segment of an argument (R26, R80) -/

theorem segment_of_mem {p q : Nat × Nat} {x : Nat} (hp : p.1 ≤ x) (hq : x < q.1) (rest : List (Nat × Nat)) :
    segment (p :: q :: rest) x = (interpolate p.1 p.2 q.1 q.2 x).toNat := if_pos ⟨hp, hq⟩

theorem segment_of_le {q : Nat × Nat} {x : Nat} (hq : q.1 ≤ x) (p : Nat × Nat) (rest : List (Nat × Nat)) :
    segment (p :: q :: rest) x = segment (q :: rest) x := if_neg fun h => absurd h.2 (Nat.not_lt.mpr hq)

/-- Of breakpoints in rising order the two around the argument make its segment: every earlier one ends at or below it. -/
theorem segment_of_getElem? {points : List (Nat × Nat)} {i x : Nat} {p q : Nat × Nat}
    (hsorted : points.Pairwise fun a b => a.1 ≤ b.1) (hi : points[i]? = some p) (hi' : points[i + 1]? = some q)
    (hp : p.1 ≤ x) (hq : x < q.1) : segment points x = (interpolate p.1 p.2 q.1 q.2 x).toNat := by
  induction i generalizing points with
  | zero =>
    match points, hi, hi' with
    | _ :: _ :: rest, rfl, rfl => exact segment_of_mem hp hq rest
  | succ i ih =>
    match points, hsorted, hi, hi' with
    | a :: b :: rest, hsorted, hi, hi' =>
      have htail := hsorted.of_cons
      have hb : b.1 ≤ p.1 := by
        have hmem : p ∈ b :: rest := List.mem_of_getElem? (i := i) hi
        rcases List.mem_cons.mp hmem with rfl | hmem
        · exact le_refl _
        · exact List.rel_of_pairwise_cons htail hmem
      rw [segment_of_le (hb.trans hp), ih htail hi hi']

/-- A segment leaves no interval that holds all the values of the table. -/
theorem segment_mem_Icc {points : List (Nat × Nat)} {lo hi : Nat} (hne : points ≠ []) (h : ∀ p ∈ points, p.2 ∈ Set.Icc lo hi) (x : Nat) :
    segment points x ∈ Set.Icc lo hi := by
  induction points with
  | nil => exact absurd rfl hne
  | cons p rest ih =>
    obtain ⟨hp, hrest⟩ := List.forall_mem_cons.mp h
    cases rest with
    | nil => exact hp
    | cons q rest =>
      by_cases hx : p.1 ≤ x ∧ x < q.1
      · obtain ⟨hplo, hphi⟩ := hp
        obtain ⟨hqlo, hqhi⟩ := hrest q List.mem_cons_self
        obtain ⟨hlo, hhi⟩ : interpolate p.1 p.2 q.1 q.2 x ∈ Set.Icc (lo : Int) hi :=
          interpolate_mem_Icc (by omega) (by omega) ⟨by omega, by omega⟩ ⟨by omega, by omega⟩
        rw [segment_of_mem hx.1 hx.2, Set.mem_Icc]
        omega
      · rw [segment, if_neg hx]
        exact ih (List.cons_ne_nil q rest) hrest

/-! ## The lines of a table (R26, R80) -/

/-- The n breakpoints (x 0, v 0) to (x (n − 1), v (n − 1)), as R26 and R80 write them. -/
def breakpoints (n : Nat) (x v : Nat → Nat) : List (Nat × Nat) := (List.range n).map fun j => (x j, v j)

theorem getElem?_breakpoints {n j : Nat} (h : j < n) (x v : Nat → Nat) : (breakpoints n x v)[j]? = some (x j, v j) := by
  simp [breakpoints, h]

theorem breakpoints_pairwise {n : Nat} {x : Nat → Nat} (hx : StrictMonoOn x (Set.Iio n)) (v : Nat → Nat) :
    (breakpoints n x v).Pairwise fun a b => a.1 ≤ b.1 := by
  rw [breakpoints, List.pairwise_map]
  refine List.pairwise_lt_range.imp_of_mem fun hi hj hij => ?_
  exact (hx (List.mem_range.mp hi) (List.mem_range.mp hj) hij).le

theorem curve_breakpoints {n : Nat} (hn : 0 < n) (x v : Nat → Nat) (b : Nat) :
    curve (breakpoints n x v) b =
      some (if b ≤ x 0 then v 0 else if x (n - 1) ≤ b then v (n - 1) else segment (breakpoints n x v) b) := by
  have hfirst : (breakpoints n x v).head? = some (x 0, v 0) := by
    rw [List.head?_eq_getElem?, getElem?_breakpoints hn]
  have hlast : (breakpoints n x v).getLast? = some (x (n - 1), v (n - 1)) := by
    rw [List.getLast?_eq_getElem?, breakpoints, List.length_map, List.length_range, ← breakpoints,
      getElem?_breakpoints (Nat.sub_one_lt_of_lt hn)]
  rw [curve, hfirst, hlast]

theorem curve_of_le_first {n b : Nat} {x : Nat → Nat} (hn : 0 < n) (v : Nat → Nat) (hb : b ≤ x 0) :
    curve (breakpoints n x v) b = some (v 0) := by
  rw [curve_breakpoints hn, if_pos hb]

theorem curve_of_last_le {n b : Nat} {x : Nat → Nat} (hn : 2 ≤ n) (hx : StrictMonoOn x (Set.Iio n)) (v : Nat → Nat)
    (hb : x (n - 1) ≤ b) : curve (breakpoints n x v) b = some (v (n - 1)) := by
  have hends : x 0 < x (n - 1) := hx (Set.mem_Iio.mpr (by omega)) (Set.mem_Iio.mpr (by omega)) (by omega)
  rw [curve_breakpoints (by omega), if_neg (by omega), if_pos hb]

/-- In a segment the table interpolates, its lower end, where the line of the first breakpoint gives the same value, included. -/
theorem curve_of_mem_segment {n b i : Nat} {x : Nat → Nat} (hx : StrictMonoOn x (Set.Iio n)) (v : Nat → Nat) (hi : i + 1 < n)
    (hlo : x i ≤ b) (hhi : b < x (i + 1)) :
    curve (breakpoints n x v) b = some (interpolate (x i) (v i) (x (i + 1)) (v (i + 1)) b).toNat := by
  rw [curve_breakpoints (by omega)]
  congr 1
  split
  next hfirst =>
    have hi0 : i = 0 := by
      by_contra hpos
      have hrise : x 0 < x i := hx (Set.mem_Iio.mpr (by omega)) (Set.mem_Iio.mpr (by omega)) (by omega)
      omega
    subst hi0
    have hb : b = x 0 := le_antisymm hfirst hlo
    rw [hb, interpolate_left, Int.toNat_natCast]
  next =>
    have hlast : x (i + 1) ≤ x (n - 1) := hx.monotoneOn (Set.mem_Iio.mpr hi) (Set.mem_Iio.mpr (by omega)) (by omega)
    rw [if_neg (by omega),
      segment_of_getElem? (breakpoints_pairwise hx v) (getElem?_breakpoints (by omega) x v) (getElem?_breakpoints hi x v) hlo hhi]

/-- A table of breakpoints leaves no interval that holds all its values. -/
theorem curve_breakpoints_mem_Icc {n lo hi : Nat} {v : Nat → Nat} (hn : 0 < n) (hv : ∀ j < n, v j ∈ Set.Icc lo hi) (x : Nat → Nat)
    (b : Nat) : ∃ y ∈ Set.Icc lo hi, curve (breakpoints n x v) b = some y := by
  refine ⟨_, ?_, curve_breakpoints hn x v b⟩
  split
  next => exact hv 0 hn
  next =>
    split
    next => exact hv (n - 1) (by omega)
    next =>
      have hne : breakpoints n x v ≠ [] := by simp [breakpoints]; omega
      refine segment_mem_Icc hne (fun p hp => ?_) b
      obtain ⟨j, hj, rfl⟩ := List.mem_map.mp hp
      exact hv j (List.mem_range.mp hj)

/-! ## The ROLL table (R80) -/

theorem rollPoints_eq_breakpoints {t : RollTable} {load threshold : Nat → Nat}
    (hpoints : ∀ j, j < t.count → t.points[j]? = some { load := load j, threshold := threshold j }) :
    rollPoints t = breakpoints t.count load threshold := by
  apply List.ext_getElem?
  intro j
  rcases Nat.lt_or_ge j t.count with hj | hj
  · have hpoint : t.points.toList[j]? = some { load := load j, threshold := threshold j } := by
      rw [← hpoints j hj]; simp
    rw [getElem?_breakpoints hj, rollPoints, List.getElem?_map, List.getElem?_take_of_lt hj, hpoint, Option.map_some]
  · rw [List.getElem?_eq_none (by simp [rollPoints]; omega), List.getElem?_eq_none (by simp [breakpoints]; omega)]

theorem tabledThreshold_of_curve {t : RollTable} {g a : Nat} (h : curve (rollPoints t) g = some a) : tabledThreshold t g = a := by
  rw [tabledThreshold, h, Option.getD_some]

/-- Settles O20: the three lines of R80, and the bounds, which the falling thresholds put at the ends of the table. -/
theorem tabledThresholdIsInterpolated : Obligations.TabledThresholdIsInterpolated := by
  unfold Obligations.TabledThresholdIsInterpolated
  intro t load threshold htwo _ hpoints hstep g
  have hroll := rollPoints_eq_breakpoints hpoints
  have hload : StrictMonoOn load (Set.Iio t.count) :=
    strictMonoOn_of_lt_add_one Set.ordConnected_Iio fun j _ _ hj => (hstep j hj).1
  have hthreshold : AntitoneOn threshold (Set.Iio t.count) :=
    antitoneOn_of_add_one_le Set.ordConnected_Iio fun j _ _ hj => (hstep j hj).2
  have hends : ∀ j < t.count, threshold j ∈ Set.Icc (threshold (t.count - 1)) (threshold 0) := fun j hj =>
    ⟨hthreshold (Set.mem_Iio.mpr hj) (Set.mem_Iio.mpr (by omega)) (by omega),
      hthreshold (Set.mem_Iio.mpr (by omega)) (Set.mem_Iio.mpr hj) (Nat.zero_le j)⟩
  refine ⟨fun hg => ?first, fun hg => ?last, fun i hi hlo hhi => ?inside, ?bounds⟩
  case first => exact tabledThreshold_of_curve (hroll ▸ curve_of_le_first (by omega) threshold hg)
  case last => exact tabledThreshold_of_curve (hroll ▸ curve_of_last_le htwo hload threshold hg)
  case inside =>
    rw [tabledThreshold_of_curve (hroll ▸ curve_of_mem_segment hload threshold hi hlo hhi), interpolate_toNat hlo hhi, interpolate]
  case bounds =>
    obtain ⟨a, ha, hcurve⟩ := curve_breakpoints_mem_Icc (by omega) hends load g
    rw [tabledThreshold_of_curve (hroll ▸ hcurve)]
    exact ha

end Sys2Proof.Machine
end

section
/-! O22: the adjusted reference pressure and the four tyre thresholds (R113). Both formulas are monotone, so that the bounds of adj are its values
at the ends of the ranges of 7.2, and the order of the thresholds is that of their ratios (V5). -/

namespace Sys2Proof.Machine

/-! ## The adjusted reference pressure -/

/-- Above absolute zero, adj rises with the reference cold pressure and with the temperature. -/
theorem adjusted_le_adjusted {p q : Nat} {t u : Int} (hpq : p ≤ q) (htu : t ≤ u) (ht : -273 ≤ t) : adjusted p t ≤ adjusted q u := by
  have hpressure : (p : Int) + 100 ≤ q + 100 := by omega
  have htemperature : t + 273 ≤ u + 273 := by omega
  have hproduct : ((p : Int) + 100) * (t + 273) ≤ (q + 100) * (u + 273) :=
    mul_le_mul hpressure htemperature (by omega) (by omega)
  exact sub_le_sub_right (Int.ediv_le_ediv (by decide) hproduct) 100

/-- R113: the coldest tyre of the lowest reference pressure, and the hottest of the highest, bound adj. -/
theorem adjusted_mem_Icc {p : Nat} {t : Int} (hp : p ∈ Set.Icc 200 1200) (ht : t ∈ Set.Icc (-40) 150) :
    adjusted p t ∈ Set.Icc 138 1776 := by
  obtain ⟨hplo, hphi⟩ := hp
  obtain ⟨htlo, hthi⟩ := ht
  have hcold : adjusted 200 (-40) = 138 := by decide
  have hhot : adjusted 1200 150 = 1776 := by decide
  exact ⟨hcold ▸ adjusted_le_adjusted hplo htlo (by decide), hhot ▸ adjusted_le_adjusted hphi hthi (by omega)⟩

/-! ## The thresholds -/

theorem tyreThreshold_le_tyreThreshold {adj : Int} {low high : Nat} (hadj : 0 ≤ adj) (h : low ≤ high) :
    tyreThreshold adj low ≤ tyreThreshold adj high :=
  Int.ediv_le_ediv (by decide) (Int.mul_le_mul_of_nonneg_left (Int.ofNat_le.mpr h) hadj)

/-- A ratio below 1,000 gives a threshold below adj, in spite of the floor. -/
theorem tyreThreshold_lt_self {adj : Int} {ratio : Nat} (hadj : 0 < adj) (h : ratio < 1000) : tyreThreshold adj ratio < adj :=
  Int.ediv_lt_of_lt_mul (by decide) (Int.mul_lt_mul_of_pos_left (by omega) hadj)

/-- A ratio of 1,000 or more gives a threshold no lower than adj. -/
theorem le_tyreThreshold_self {adj : Int} {ratio : Nat} (hadj : 0 ≤ adj) (h : 1000 ≤ ratio) : adj ≤ tyreThreshold adj ratio :=
  Int.le_ediv_of_mul_le (by decide) (Int.mul_le_mul_of_nonneg_left (by omega) hadj)

/-- Settles O22: the formulas, the adj that a reading keeps, the bounds of adj and the order of the thresholds. -/
theorem tyreThresholdsAreFormed : Obligations.TyreThresholdsAreFormed := by
  unfold Obligations.TyreThresholdsAreFormed
  refine ⟨fun _ _ => rfl, fun _ _ => rfl, fun _ _ _ _ _ _ => rfl, ?boundsAndOrder⟩
  case boundsAndOrder =>
    intro p t y hplo hphi htlo hthi hdeflate halarm hwarn hhigh
    obtain ⟨hlo, hhi⟩ := adjusted_mem_Icc ⟨hplo, hphi⟩ ⟨htlo, hthi⟩
    have hpos : 0 < adjusted p t := by omega
    exact ⟨hlo, hhi, tyreThreshold_le_tyreThreshold hpos.le hdeflate.le, tyreThreshold_le_tyreThreshold hpos.le halarm.le,
      tyreThreshold_lt_self hpos hwarn, le_tyreThreshold_self hpos.le hhigh.le⟩

end Sys2Proof.Machine
end

section
/-! O23: the tyre levels and the hot flag (R114 to R117). One equation per line of R114's table, the hysteresis of R115 for the low levels alone,
the three lines of R117, and the entry that an insertion leaves dormant (R125). -/

namespace Sys2Proof.Machine

/-! ## The candidate level (R114) -/

/-- The condition of R114's first line, DEFLATED. -/
abbrev Deflates (y : TyreTable) (adj : Int) (p : Nat) (rapid : Bool) : Prop :=
  (p : Int) < tyreThreshold adj y.deflate ∨ p < 100 ∨ (rapid = true ∧ (p : Int) < tyreThreshold adj y.warn)

section
variable {y : TyreTable} {adj : Int} {p : Nat} {rapid : Bool}

/-- R114's table as the part reads it, on the pressure as a natural number. -/
theorem candidateLevel_eq (y : TyreTable) (adj : Int) (p : Nat) (rapid : Bool) :
    candidateLevel y adj p rapid =
      if Deflates y adj p rapid then .deflated
      else if (p : Int) < tyreThreshold adj y.alarm then .lowAlarm
      else if (p : Int) < tyreThreshold adj y.warn then .lowWarn
      else if tyreThreshold adj y.high < p then .high
      else .normal := by
  simp only [candidateLevel, Deflates, Nat.cast_lt_ofNat]

theorem candidateLevel_deflated (h : Deflates y adj p rapid) : candidateLevel y adj p rapid = .deflated := by
  rw [candidateLevel_eq, if_pos h]

theorem candidateLevel_lowAlarm (h : ¬Deflates y adj p rapid) (halarm : (p : Int) < tyreThreshold adj y.alarm) :
    candidateLevel y adj p rapid = .lowAlarm := by
  rw [candidateLevel_eq, if_neg h, if_pos halarm]

theorem candidateLevel_lowWarn (h : ¬Deflates y adj p rapid) (halarm : tyreThreshold adj y.alarm ≤ p)
    (hwarn : (p : Int) < tyreThreshold adj y.warn) : candidateLevel y adj p rapid = .lowWarn := by
  rw [candidateLevel_eq, if_neg h, if_neg halarm.not_gt, if_pos hwarn]

theorem candidateLevel_high (h : ¬Deflates y adj p rapid) (halarm : tyreThreshold adj y.alarm ≤ p)
    (hwarn : tyreThreshold adj y.warn ≤ p) (hhigh : tyreThreshold adj y.high < p) : candidateLevel y adj p rapid = .high := by
  rw [candidateLevel_eq, if_neg h, if_neg halarm.not_gt, if_neg hwarn.not_gt, if_pos hhigh]

theorem candidateLevel_normal (h : ¬Deflates y adj p rapid) (halarm : tyreThreshold adj y.alarm ≤ p)
    (hwarn : tyreThreshold adj y.warn ≤ p) (hhigh : (p : Int) ≤ tyreThreshold adj y.high) : candidateLevel y adj p rapid = .normal := by
  rw [candidateLevel_eq, if_neg h, if_neg halarm.not_gt, if_neg hwarn.not_gt, if_neg hhigh.not_gt]

end

/-! ## The new level (R115, R116) -/

/-- The low levels are those that have a severity. -/
theorem Level.severity_ne_zero_iff {l : Level} : l.severity ≠ 0 ↔ l = .lowWarn ∨ l = .lowAlarm ∨ l = .deflated := by
  cases l with
  | lowWarn | lowAlarm | deflated | unknown | normal | high | missing => decide

/-- DEFLATED has the exit limit of LOW_ALARM. -/
theorem exitLimit_eq (y : TyreTable) (adj : Int) (before : Level) :
    exitLimit y adj before = tyreThreshold adj (if before = .lowWarn then y.warn else y.alarm) * (1000 + y.hysteresis) / 1000 := by
  rw [exitLimit, apply_ite (tyreThreshold adj)]

theorem newLevel_of_severity_eq_zero {before : Level} (h : before.severity = 0) (y : TyreTable) (adj : Int) (p : Nat) (rapid : Bool) :
    newLevel y adj p rapid before = candidateLevel y adj p rapid := if_pos h

/-- A low level gives way to one as severe or more, and to any other at its exit limit. -/
theorem newLevel_of_severity_ne_zero {before : Level} (h : before.severity ≠ 0) (y : TyreTable) (adj : Int) (p : Nat) (rapid : Bool) :
    newLevel y adj p rapid before =
      if before.severity ≤ (candidateLevel y adj p rapid).severity ∨ exitLimit y adj before ≤ p then candidateLevel y adj p rapid
      else before := by
  rw [newLevel, if_neg h, ite_or]

/-! ## The hot flag (R117) -/

theorem newHot_of_limit_le {limit : Nat} {t : Int} (h : (limit : Int) ≤ t) (before : Bool) : newHot limit t before = true := if_pos h

theorem newHot_of_le {limit : Nat} {t : Int} (h : t ≤ (limit : Int) - 5) (before : Bool) : newHot limit t before = false := by
  rw [newHot, if_neg (by omega), if_pos h]

/-- Between the two limits the flag stays as it was. -/
theorem newHot_of_between {limit : Nat} {t : Int} (hlo : (limit : Int) - 5 < t) (hhi : t < limit) (before : Bool) :
    newHot limit t before = before := by
  rw [newHot, if_neg hhi.not_ge, if_neg hlo.not_ge]

/-! ## An entry that an insertion leaves dormant (R125) -/

theorem Ev.setReadings_entry (e : Ev) (f : Bound → Reading) (i : Fin 20) :
    (e.setReadings f).twu.entries[i] = e.twu.entries[i].map fun b => { b with reading := f b } := by
  simp [Ev.setReadings]

/-- An entry whose binding the insertion makes invalid takes the reset values of R129. -/
theorem Ev.insertReadings_dormant {e : Ev} {old : Vector AxleEntry 4} {i : Fin 20} {b : Bound} (hb : e.twu.entries[i] = some b)
    (hold : bindingValid old b.binding = true) (hnew : bindingValid e.tbu.active.axle b.binding = false) :
    (e.insertReadings old).twu.entries[i] = some { b with reading := {} } := by
  have hinvalid : e.validBinding b.binding = false := hnew
  rw [Ev.insertReadings, Ev.setReadings_entry, hb, Option.map_some, hold, hinvalid]

/-- Settles O23: the lines of R114's table, the new level by the severity of the level before, the lines of R117, and the readings of an accepted
telegram, of an expired missing timer and of a dormant entry. -/
theorem tyreLevelsAreFormed : Obligations.TyreLevelsAreFormed := by
  unfold Obligations.TyreLevelsAreFormed
  refine ⟨fun y adj p rapid => ⟨candidateLevel_deflated, fun h => ?notDeflated, fun before hwarn halarm hdeflated => ?fromScratch,
      fun before hlow => ?hysteresis, fun limit t before => ?hot⟩,
    fun _ _ _ _ _ _ => ⟨rfl, rfl, rfl⟩, fun _ => ⟨rfl, rfl⟩, fun e old i b hb hold hnew => ?dormant⟩
  case notDeflated => exact ⟨candidateLevel_lowAlarm h, candidateLevel_lowWarn h, candidateLevel_high h, candidateLevel_normal h⟩
  case fromScratch =>
    have hnotLow : ¬before.severity ≠ 0 := by simp [Level.severity_ne_zero_iff, hwarn, halarm, hdeflated]
    exact newLevel_of_severity_eq_zero (not_not.mp hnotLow) y adj p rapid
  case hysteresis =>
    rw [newLevel_of_severity_ne_zero (Level.severity_ne_zero_iff.mpr hlow), exitLimit_eq]
  case hot => exact ⟨fun h => newHot_of_limit_le h before, fun h => newHot_of_le h before, fun hlo hhi => newHot_of_between hlo hhi before⟩
  case dormant => exact ⟨_, Ev.insertReadings_dormant hb hold hnew, rfl, rfl⟩

end Sys2Proof.Machine
end
